-- ==== Sys2Proof/Word.lean ====
section
/-!
DEFINITION. The word types of the block (00_scope.md R8, R10, R11; 30_encoding.md R300, R304).
-/

namespace Sys2Proof

/-- A byte is 8 bits (R10). -/
abbrev Byte := BitVec 8

/-- The 32-bit words: `OFFSET`, `CURSOR`, `VALUE`, a widened lane (R8). Its signed reading `s32` (R11)
is `BitVec.toInt`. -/
abbrev Word := BitVec 32

/-- Eight byte lanes packed into 64 bits: `LV_IN` and `LV_OUT` (R303). -/
abbrev LaneWord := BitVec 64

/-- A request word `REQ` (R300). -/
abbrev ReqWord := BitVec 128

/-- A response word `RSP` (R304). -/
abbrev RspWord := BitVec 128

end Sys2Proof
end

