-- ==== Sys2Proof/Syntax.lean ====
section
/-!
DEFINITION. The requests of spec/opcode_table.json (30_encoding.md R301, R307), one constructor for each row.
-/

namespace Sys2Proof

/-- A request. Each constructor carries both operand fields of the request word, also those the request
ignores (R301), so that decoding drops no bit; assumption log 15. -/
inductive Instr where
  /-- `DECODE` (R420): decode the lane vector `lvIn`. -/
  | decode (offset : Word) (lvIn : LaneWord)
  /-- `LOAD` (R501): load a lane vector at `offset`. -/
  | load (offset : Word) (lvIn : LaneWord)
  /-- `READ_AT` (R502): decode at `offset`. -/
  | readAt (offset : Word) (lvIn : LaneWord)
  /-- `PEEK` (R503): decode at the cursor. -/
  | peek (offset : Word) (lvIn : LaneWord)
  /-- `READ_ADV` (R504): decode at the cursor and advance it. -/
  | readAdv (offset : Word) (lvIn : LaneWord)
  /-- `SET_CURSOR` (R600): write `offset` to the cursor. -/
  | setCursor (offset : Word) (lvIn : LaneWord)
  /-- `GET_CURSOR` (R601): read the cursor. -/
  | getCursor (offset : Word) (lvIn : LaneWord)
  /-- The reserved row (R309, R703): a request word whose control word `ctl` selects no operation. -/
  | illegal (ctl : Word) (offset : Word) (lvIn : LaneWord)
  deriving DecidableEq, Repr

end Sys2Proof
end

