-- ==== Sys2Proof/WellFormed.lean ====
section
/-!
DEFINITION. Which terms of `Instr` a request word can stand for. The only check is on the reserved row: its
control word selects no operation (30_encoding.md R309). Every operand value is legal (R301, R302).
-/

namespace Sys2Proof

/-- The control words that select no operation (R309): `OP = 111`, or a bit of `RSV` set. -/
def ctlIsIllegal (ctl : Word) : Bool :=
  ctl.extractLsb' 0 3 == 7#3 || ctl.extractLsb' 3 29 != 0#29

/-- An instruction is well-formed if some request word decodes to it. Assumption log 14. -/
def Instr.wf : Instr → Bool
  | .decode _ _ => true
  | .load _ _ => true
  | .readAt _ _ => true
  | .peek _ _ => true
  | .readAdv _ _ => true
  | .setCursor _ _ => true
  | .getCursor _ _ => true
  | .illegal ctl _ _ => ctlIsIllegal ctl

end Sys2Proof
end

