-- ==== Sys2Proof/Decode.lean ====
section
/-!
DEFINITION. Decoding a request word and encoding a request (30_encoding.md R300 to R310). Every 128-bit word
decodes (R308): a word that selects no operation decodes to the reserved row `illegal`, by name.
-/

namespace Sys2Proof

/-- `OP = REQ[2:0]` (R300). -/
abbrev ReqWord.op (req : ReqWord) : BitVec 3 := req.extractLsb' 0 3

/-- `RSV = REQ[31:3]` (R300). -/
abbrev ReqWord.rsv (req : ReqWord) : BitVec 29 := req.extractLsb' 3 29

/-- `CTL = REQ[31:0]` (R300). -/
abbrev ReqWord.ctl (req : ReqWord) : Word := req.extractLsb' 0 32

/-- `OFFSET = REQ[63:32]` (R300). -/
abbrev ReqWord.offset (req : ReqWord) : Word := req.extractLsb' 32 32

/-- `LV_IN = REQ[127:64]` (R300). -/
abbrev ReqWord.lvIn (req : ReqWord) : LaneWord := req.extractLsb' 64 64

/-- `DecodeReq` (R308). -/
def decodeReq (req : ReqWord) : Instr :=
  if req.rsv ≠ 0#29 then .illegal req.ctl req.offset req.lvIn
  else
    match req.op.toNat with
    | 0 => .decode req.offset req.lvIn
    | 1 => .load req.offset req.lvIn
    | 2 => .readAt req.offset req.lvIn
    | 3 => .peek req.offset req.lvIn
    | 4 => .readAdv req.offset req.lvIn
    | 5 => .setCursor req.offset req.lvIn
    | 6 => .getCursor req.offset req.lvIn
    | _ => .illegal req.ctl req.offset req.lvIn

/-- The request word `LV_IN_OFFSET_CTL` (R300). -/
def packReq (lvIn : LaneWord) (offset ctl : Word) : ReqWord :=
  ctl.zeroExtend 128 ||| offset.zeroExtend 128 <<< 32 ||| lvIn.zeroExtend 128 <<< 64

/-- The control word of a request (R307). -/
def Instr.ctl : Instr → Word
  | .decode _ _ => 0x00000000#32
  | .load _ _ => 0x00000001#32
  | .readAt _ _ => 0x00000002#32
  | .peek _ _ => 0x00000003#32
  | .readAdv _ _ => 0x00000004#32
  | .setCursor _ _ => 0x00000005#32
  | .getCursor _ _ => 0x00000006#32
  | .illegal ctl _ _ => ctl

/-- The `OFFSET` field of a request (R300). -/
def Instr.offset : Instr → Word
  | .decode offset _ => offset
  | .load offset _ => offset
  | .readAt offset _ => offset
  | .peek offset _ => offset
  | .readAdv offset _ => offset
  | .setCursor offset _ => offset
  | .getCursor offset _ => offset
  | .illegal _ offset _ => offset

/-- The `LV_IN` field of a request (R300). -/
def Instr.lvIn : Instr → LaneWord
  | .decode _ lvIn => lvIn
  | .load _ lvIn => lvIn
  | .readAt _ lvIn => lvIn
  | .peek _ lvIn => lvIn
  | .readAdv _ lvIn => lvIn
  | .setCursor _ lvIn => lvIn
  | .getCursor _ lvIn => lvIn
  | .illegal _ _ lvIn => lvIn

/-- The request word of a request (R300, R307). -/
def encode (i : Instr) : ReqWord := packReq i.lvIn i.offset i.ctl

/-- The request word whose low `nbits` bits are those of `w`, the bits above them zero. A request is one
128-bit word that arrives whole (R300, R310), so `w`'s numbering of the bits is `REQ`'s own. -/
def tableReq (nbits w : Nat) : ReqWord := BitVec.ofNat 128 (w % 2 ^ nbits)

/-- The request the decoder reads from a word that opcode_table.json numbers; a request has 128 bits (R310),
so a longer word is none. -/
def decodeTableWord (nbits w : Nat) : Option Instr :=
  if nbits ≤ 128 then some (decodeReq (tableReq nbits w)) else none

end Sys2Proof
end

