-- ==== Sys2Proof/Config.lean ====
section
/-!
DEFINITION. What an implementation fixes (00_scope.md R8, R9; 93_implementation_defined.md) and the free values
(20_memory.md R214). A constant without a body is OPEN: no proof can see its value.
-/

namespace Sys2Proof

/-- `MAX_LEN`: the greatest length of a varint in bytes. It is fixed (R8, R9), so the types write it 5. -/
def Config.maxLen : Nat := 5

/-- `LANES`: byte lanes of a lane vector. It is fixed (R8, R9), so the types write it 8. -/
def Config.lanes : Nat := 8

/-- The greatest window length any platform can have, 2^31 - 1 (R8, R200). -/
abbrev Config.windowLimit : Nat := 2 ^ 31 - 1

/-- `MAX_SRC_LEN` (R8, X11), OPEN: a natural number at most 2^31 - 1. Assumption log 12. -/
opaque Config.maxSrcLen : Fin (2 ^ 31)

/-- `NUM_ENGINES` less one, OPEN (R8, X12). Assumption log 3. -/
opaque Config.extraEngines : Nat

/-- `NUM_ENGINES` (R8, R714), at least 1. -/
def Config.numEngines : Nat := Config.extraEngines + 1

/-- `LATENCY` less one, OPEN (R8, X10). -/
opaque Config.latencyLessOne : Nat

/-- `LATENCY` (R8, R806), at least 1; no rule depends on it. Assumption log 17. -/
def Config.latency : Nat := Config.latencyLessOne + 1

/-- `TRUNCATED_POLICY` (X9): what becomes of a varint cut off by the end of the window. The block is
`literal` (R506); `malformed` is there for claims that must hold of either. Assumption log 11. -/
inductive TruncatedPolicy where
  | literal
  | malformed
  deriving DecidableEq, Repr

/-- FREE VALUE: the byte a lane holds that was filled from a window the host changed during the load
(R214, X7). The argument is a draw number. Assumption log 7. -/
opaque Config.freeByte : Nat → Byte

/-- FREE VALUE: whether such a load computed `avail` from the length after the change (R214, X7).
The argument is a draw number. Assumption log 7. -/
opaque Config.freeChoice : Nat → Bool

/-- FREE VALUE: how many lanes such a load fills from the window if it computes `avail` from the length after the change
and its offset is not in range for that length, so that no `avail` is stated (R202, R214). The argument is a draw number.
Assumption log 23. -/
opaque Config.freeCount : Nat → Fin 9

end Sys2Proof
end

