-- ==== Sys2Proof/Machine/State.lean ====
section
/-!
DEFINITION. The state: one engine instance in front, the other instances, the host's remaining actions
(10_state.md R100 to R112, 20_memory.md R200, 00_scope.md R15, R16, 70_reset_and_hazards.md R800).
The two ROM tables are constants (R105, R106; assumption log 13) and stand in Machine/Tables.lean.
-/

namespace Sys2Proof.Machine

/-- The bytes of a window: (address, byte), addresses strictly rising, none equal to `Memory.unlisted`. -/
abbrev Memory := List Host.Cell

/-- What an address that is not listed reads as. The host owns every byte of a window (R111, R200); a byte it
put at 0x00 is not listed. DESIGN CHOICE, assumption log 6. -/
def Memory.unlisted : Byte := 0x00#8

/-- The canonical form of `Memory`: two memories in it that read alike are equal. -/
abbrev Memory.wf (m : Memory) : Prop :=
  m.Pairwise (fun x y => x.1 < y.1) ∧ ∀ c ∈ m, c.2 ≠ Memory.unlisted

/-- A source window (R200): its readable length `SRC_LEN` and its bytes. -/
structure Window where
  len : Nat
  bytes : Memory
  deriving DecidableEq, Repr

/-- A window the spec allows on any platform (R200), its bytes in canonical form and inside it. -/
abbrev Window.wf (w : Window) : Prop :=
  w.len ≤ Config.windowLimit ∧ w.bytes.wf ∧ ∀ c ∈ w.bytes, c.1 < w.len

/-- One engine instance with its window and its response interface (R100, R714). -/
structure Engine where
  /-- `CURSOR` (R101). -/
  cursor : Word
  /-- The source window on this instance's window port (R200). -/
  window : Window
  /-- The instance is held in reset (R801). -/
  inReset : Bool
  /-- The response words the host has received from this instance, newest first (R304). The block never
  reads them (R109). Assumption log 2. -/
  responses : List RspWord
  deriving DecidableEq, Repr

/-- One action of the host (R15). A window is given by its length and (address, byte) cells, later cells
over earlier ones, every other byte 0x00. Assumption log 1. -/
inductive HostAction where
  /-- Present a request to the instance in front and leave its window alone meanwhile (R300, R213). -/
  | present (req : ReqWord)
  /-- Present a request and, while it is in progress, change the window to the given one (R214). -/
  | presentRacing (req : ReqWord) (len : Nat) (cells : List Host.Cell)
  /-- Between requests, change the window to the given one (R213). -/
  | setWindow (len : Nat) (cells : List Host.Cell)
  /-- Turn to another instance, the `k`-th of those not in front (R714). Assumption log 3. -/
  | selectEngine (k : Nat)
  /-- Put the instance in front into reset (R801). -/
  | assertReset
  /-- Release the instance in front from reset (R800, R802). -/
  | releaseReset
  deriving DecidableEq, Repr

/-- The state of the platform. -/
structure State where
  /-- The instance the host is turned to. -/
  engine : Engine
  /-- The other instances (R714). Assumption log 3. -/
  others : List Engine
  /-- The host's remaining actions, next one first. Assumption log 1. -/
  host : List HostAction
  /-- The window the host changes to WHILE the request in progress runs, if it breaks its duty (R214).
  Between steps no request is in progress and this is none. Assumption log 7. -/
  racing : Option Window
  /-- How many free values have been drawn. The model's own field; assumption log 8. -/
  draws : Nat
  deriving DecidableEq, Repr

/-- Why the machine stops with a fault. -/
inductive Fault where
  /-- Raised by `Machine.present` and `Machine.presentRacing` when the instance is in reset: the engine has no
  step until reset ends (R801, X15: stuck). Safe. Assumption log 10. -/
  | requestDuringReset
  /-- Raised by `Machine.withLoaded` if `MemRead` is asked for a byte outside the window, where it is not
  defined (R12, R203). The range check comes first (R206, R500), so no request raises it. Safe.
  Assumption log 16. -/
  | readOutsideWindow
  deriving DecidableEq, Repr

/-- Why the model gives no meaning. -/
inductive Refusal where
  /-- Raised by an arm of `exec` whose request has no meaning yet. None is left. Safe. -/
  | notModelled (mnemonic : String)
  /-- Raised by `Machine.setWindow` and `Machine.presentRacing` for a window longer than 2^31 - 1, which does
  not exist (R200). Safe. Assumption log 12. -/
  | windowTooLong
  /-- Raised by `Machine.selectEngine` for an instance the platform does not have. Safe. Assumption log 19. -/
  | noSuchEngine
  deriving DecidableEq, Repr

/-- What one step of this machine answers. -/
abbrev StepOutcome := Host.Outcome State Fault Refusal

/-- The window a host has not set up yet: no readable byte. The block does not reset the window (R111, R800).
DESIGN CHOICE, assumption log 5. -/
def Window.empty : Window := { len := 0, bytes := [] }

/-- One instance after reset (R800): `CURSOR = 0`, reset released, nothing answered yet. -/
def Engine.reset : Engine :=
  { cursor := 0x00000000#32, window := Window.empty, inReset := false, responses := [] }

/-- The platform after reset (R800, R714): every instance at its reset state, no request in progress. -/
def State.reset : State :=
  { engine := Engine.reset
    others := List.replicate Config.extraEngines Engine.reset
    host := []
    racing := none
    draws := 0 }

end Sys2Proof.Machine
end

