-- ==== Sys2Proof/Machine/Flags.lean ====
section
/-!
DEFINITION. The block has no flags (10_state.md R109): the outcome of a request is its response's `STATUS` field.
The status codes and the response word (30_encoding.md R304 to R306).
-/

namespace Sys2Proof.Machine

/-- The four outcomes of a request (R305, R704). -/
inductive Status where
  | ok
  | outOfRange
  | malformed
  | illegalRequest
  deriving DecidableEq, Repr

/-- The `STATUS` encoding (R305). -/
def Status.code : Status → BitVec 2
  | .ok => 0#2
  | .outOfRange => 1#2
  | .malformed => 2#2
  | .illegalRequest => 3#2

/-- The response word (R304): `STATUS` in bits 1..0, `LAST` in 4..2, `CONSUMED` in 7..5, `VALUE` in 63..32, `LV_OUT` in
127..64; the reserved bits 31..8 are zero. -/
def packRsp (status : Status) (value : Word) (last consumed : BitVec 3) (lvOut : LaneWord) : RspWord :=
  status.code.zeroExtend 128 ||| last.zeroExtend 128 <<< 2 ||| consumed.zeroExtend 128 <<< 5 |||
    value.zeroExtend 128 <<< 32 ||| lvOut.zeroExtend 128 <<< 64

/-- The response of an error (R306): every field but `STATUS` is zero. -/
def errorRsp (status : Status) : RspWord := packRsp status 0#32 0#3 0#3 0#64

end Sys2Proof.Machine
end

