-- ==== Sys2Proof/Machine/Operands.lean ====
section
/-!
DEFINITION. Operand assembly: the signed reading of an offset and the packing of lanes
(30_encoding.md R302, R303; 00_scope.md R11, R13).
-/

namespace Sys2Proof.Machine

/-- A lane vector of `LANES = 8` bytes (R9, R13): lane i is the byte at load offset + i. -/
abbrev Lanes := Fin 8 → Byte

/-- `s32` (R11), the signed reading of an offset or of the cursor (R302, R101). -/
abbrev s32 (w : Word) : Int := w.toInt

/-- `unpack(LV_IN)` (R303): lane i is bits 8i+7..8i. -/
def unpackLanes (lv : LaneWord) : Lanes := fun i => lv.extractLsb' (8 * i.val) 8

/-- `pack(L)` (R303): lane 0 is the least significant byte. -/
def packLanes (L : Lanes) : LaneWord :=
  (L 0).zeroExtend 64 ||| (L 1).zeroExtend 64 <<< 8 ||| (L 2).zeroExtend 64 <<< 16 |||
    (L 3).zeroExtend 64 <<< 24 ||| (L 4).zeroExtend 64 <<< 32 ||| (L 5).zeroExtend 64 <<< 40 |||
    (L 6).zeroExtend 64 <<< 48 ||| (L 7).zeroExtend 64 <<< 56

end Sys2Proof.Machine
end

