-- ==== Sys2Proof/Machine/Tables.lean ====
section
/-!
DEFINITION. The two ROM tables, constants of the block (10_state.md R102 to R106).
-/

namespace Sys2Proof.Machine

/-- `SHIFT_LUT` (R102): five entries, entry i is 7 * i. No entry beyond index 4 (R103; assumption log 22). -/
def shiftLut : Vector Word 5 :=
  #v[0x00000000#32, 0x00000007#32, 0x0000000E#32, 0x00000015#32, 0x0000001C#32]

/-- `MASK_TABLE` (R104): entry i selects lanes 0..i; bit j of an entry belongs to lane j (R13). -/
def maskTable : Vector (BitVec 8) 5 :=
  #v[0x01#8, 0x03#8, 0x07#8, 0x0F#8, 0x1F#8]

end Sys2Proof.Machine
end

