-- ==== Sys2Proof/Machine/VarintEngine.lean ====
section
/-!
DEFINITION. The function `Decode` (40_decode_engine.md R400 to R414), step by step. It is pure (R414): a function of
the lane vector and the two ROM tables.
-/

namespace Sys2Proof.Machine

/-- What `Decode` returns (R400). -/
inductive DecodeResult where
  | malformed
  | ok (value : Word) (last : Fin 5)
  deriving DecidableEq, Repr

/-- Step 1, the continuation mask `CM` (R401): bit 7 of each lane. -/
def continuationMask (L : Lanes) : Fin 8 → Bool := fun i => (L i).getLsbD 7

/-- Step 2, `k` (R402): the least lane whose continuation bit is clear, 8 if there is none. -/
def firstClear (cm : Fin 8 → Bool) : Nat :=
  if !cm 0 then 0 else if !cm 1 then 1 else if !cm 2 then 2 else if !cm 3 then 3
  else if !cm 4 then 4 else if !cm 5 then 5 else if !cm 6 then 6 else if !cm 7 then 7 else 8

/-- Step 3, strip (R404): every lane loses its continuation bit. -/
def stripLanes (L : Lanes) : Lanes := fun i => L i &&& 0x7F#8

/-- Step 4, widen (R405): zero-extend every lane to 32 bits. -/
def widenLanes (P : Lanes) : Fin 8 → Word := fun i => (P i).zeroExtend 32

/-- Step 5, shift (R406): lanes 0..4, each by its entry of `SHIFT_LUT`. -/
def shiftLanes (W : Fin 8 → Word) : Fin 5 → Word :=
  fun i => W (i.castLE (by decide)) <<< shiftLut[i].toNat

/-- One lane's part in the reduction (R407): the lane if the mask selects it, else nothing. -/
def maskedLane (mask : BitVec 8) (S : Fin 5 → Word) (i : Fin 5) : Word :=
  if mask.getLsbD i.val then S i else 0x00000000#32

/-- Step 6, reduction (R407): the OR of lanes 0..4 under `MASK_TABLE[last]`. -/
def reduceLanes (S : Fin 5 → Word) (last : Fin 5) : Word :=
  maskedLane maskTable[last] S 0 ||| maskedLane maskTable[last] S 1 ||| maskedLane maskTable[last] S 2
    ||| maskedLane maskTable[last] S 3 ||| maskedLane maskTable[last] S 4

/-- `Decode(L)` (R400, R402, R408). -/
def decodeLanes (L : Lanes) : DecodeResult :=
  if h : firstClear (continuationMask L) < 5 then
    .ok (reduceLanes (shiftLanes (widenLanes (stripLanes L))) ⟨firstClear (continuationMask L), h⟩)
      ⟨firstClear (continuationMask L), h⟩
  else .malformed

/-- `consumed = last + 1` (R408), as the 3-bit field of a response. -/
def consumedField (last : Fin 5) : BitVec 3 := BitVec.ofNat 3 (last.val + 1)

/-- `last` as the 3-bit field of a response (R304). -/
def lastField (last : Fin 5) : BitVec 3 := BitVec.ofNat 3 last.val

/-- A loaded varint is cut off by the end of the window if its terminating lane is a zero-fill lane: lane `last`
is not among the `n` lanes the load filled (R506). -/
abbrev truncated (n : Nat) (last : Fin 5) : Bool := decide (n ≤ last.val)

/-- `Decode` of a loaded lane vector of which `n` lanes came from the window, under a policy for a truncated
varint (X9). Under `literal`, the block's own (R506), it is `Decode` itself. -/
def decodeLoaded (policy : TruncatedPolicy) (n : Nat) (L : Lanes) : DecodeResult :=
  match policy, decodeLanes L with
  | _, .malformed => .malformed
  | .literal, .ok value last => .ok value last
  | .malformed, .ok value last => if truncated n last then .malformed else .ok value last

/-- This block's policy (R506, X9). Assumption log 11. -/
def blockPolicy : TruncatedPolicy := .literal

end Sys2Proof.Machine
end

