-- ==== Sys2Proof/Machine/Ops.lean ====
section
/-!
DEFINITION. The shared operations: bytes of a window (20_memory.md R203), the range check and the lane vector load
(41_load_and_read.md R500, 20_memory.md R206, R207, R214), the cursor (10_state.md R101), and completing a request
with a response (00_scope.md R12). The block has no exceptions to enter or return from (60_exceptions.md R700, R709,
R710): `State.raise` is the one shared operation by which a request reports an error.
-/

namespace Sys2Proof.Machine

/-! ### Bytes of a window -/

/-- The byte listed for an address. -/
def Memory.read : Memory → Nat → Byte
  | [], _ => Memory.unlisted
  | (b, v) :: rest, a => if a = b then v else Memory.read rest a

/-- Put a byte at an address, keeping the canonical form. Only the host does so (R205). -/
def Memory.write : Memory → Nat → Byte → Memory
  | [], a, v => if v = Memory.unlisted then [] else [(a, v)]
  | (b, w) :: rest, a, v =>
    if a < b then (if v = Memory.unlisted then (b, w) :: rest else (a, v) :: (b, w) :: rest)
    else if a = b then (if v = Memory.unlisted then rest else (a, v) :: rest)
    else (b, w) :: Memory.write rest a v

/-- `MemRead(a, 1)` (R203): the byte `SRC[a]`, defined only inside the window (R12). -/
def Window.read? (w : Window) (a : Nat) : Option Byte :=
  if a < w.len then some (w.bytes.read a) else none

/-- One cell of a window a host puts in place; a cell outside the window is no byte of it. -/
def Window.putCell (w : Window) (c : Host.Cell) : Window :=
  if c.1 < w.len then { w with bytes := w.bytes.write c.1 c.2 } else w

/-- The window a host puts in place, from its length and cells; none if no window can be so long (R200). -/
def Window.ofCells (len : Nat) (cells : List Host.Cell) : Option Window :=
  if len ≤ Config.windowLimit then some (cells.foldl Window.putCell { len := len, bytes := [] }) else none

/-! ### Responses and errors -/

/-- Complete the request in progress with a response word (`respond`, R12; R807: exactly one response). -/
def State.respond (s : State) (rsp : RspWord) : State :=
  { s with engine := { s.engine with responses := rsp :: s.engine.responses } }

/-- Complete the request with an error (`raise`, R12; R700, R706): the status, every other response field zero, and
no architectural state written. -/
def State.raise (s : State) (status : Status) : State := s.respond (errorRsp status)

/-! ### The cursor -/

/-- `CURSOR <- v` (R12, R101). -/
def State.setCursor (s : State) (v : Word) : State :=
  { s with engine := { s.engine with cursor := v } }

/-- The cursor after an advance (R504, R505): modulo 2^32. -/
def advanceCursor (cursor : Word) (last : Fin 5) : Word :=
  cursor + BitVec.ofNat 32 (last.val + 1)

/-! ### The range check and the lane vector load -/

/-- `InRange(off)` for a readable length (R500). -/
def inRange (off : Word) (len : Nat) : Bool := decide (0 ≤ s32 off ∧ s32 off < (len : Int))

/-- The byte index of an offset that is in range (R302). -/
abbrev offsetIndex (off : Word) : Nat := (s32 off).toNat

/-- How many lanes the load fills from the window, `n = min(LANES, avail(off))` (R202, R206). -/
abbrev laneCount (off : Word) (len : Nat) : Nat := min 8 (len - offsetIndex off)

/-- How many lanes the load of the request in progress fills from the window: `n` for `SRC_LEN` (R206), or, if the host
changes the window meanwhile, `n` for either length, by a free value (R214). Where the length after the change leaves the
offset no `avail` (R202), `n` itself is a free value. Assumption log 7, log 23. -/
def State.lanesFilled (s : State) (off : Word) : Nat :=
  match s.racing with
  | none => laneCount off s.engine.window.len
  | some w =>
    if Config.freeChoice s.draws then
      if inRange off w.len then laneCount off w.len else (Config.freeCount s.draws).val
    else laneCount off s.engine.window.len

/-- The byte the load puts in lane `i` from index `a` of the window: `MemRead(a, 1)` on the snapshot (R203, R213), or,
if the host changes the window meanwhile, a free value (R214). Assumption log 7. -/
def State.laneByte (s : State) (a i : Nat) : Option Byte :=
  match s.racing with
  | none => s.engine.window.read? a
  | some _ => some (Config.freeByte (s.draws + 1 + i))

/-- Lane `i` of `LoadLanes` (R206, R207): from the window if `i < n`, else the zero fill. -/
def State.loadLane (s : State) (a n i : Nat) : Option Byte :=
  if i < n then s.laneByte (a + i) i else some 0x00#8

/-- `LoadLanes` (R206) at index `a` with `n` lanes from the window; none if it would read outside the window. -/
def State.loadLanes (s : State) (a n : Nat) : Option Lanes :=
  if ∀ i : Fin 8, (s.loadLane a n i.val).isSome then
    some (fun i => (s.loadLane a n i.val).getD 0x00#8)
  else none

/-- Count the free values a load drew: one draw for the number of lanes and one for each lane, and only when the host
changed the window meanwhile. Assumption log 8. -/
def State.countDraws (s : State) : State :=
  match s.racing with
  | none => s
  | some _ => { s with draws := s.draws + 9 }

/-- What every request that loads does first (R500, R501 to R504): check the range against `SRC_LEN` at the start of the
request, raise `OutOfRange` before any memory read, else load; then go on with the number of lanes filled from the window
and the lane vector. A host that changes the window meanwhile has no effect on the check (R500, D10), only on the load
(R214). -/
def withLoaded (off : Word) (s : State) (k : Nat → Lanes → State → StepOutcome) : StepOutcome :=
  if inRange off s.engine.window.len then
    match s.loadLanes (offsetIndex off) (s.lanesFilled off) with
    | none => .fault .readOutsideWindow
    | some L => k (s.lanesFilled off) L s.countDraws
  else .next (s.raise .outOfRange)

/-! ### Completing a decode -/

/-- The response of a decode that succeeded (R420, R502 to R504). -/
def decodedRsp (value : Word) (last : Fin 5) (lv : LaneWord) : RspWord :=
  packRsp .ok value (lastField last) (consumedField last) lv

/-- Complete a decoding request (R420, R502, R503): `MalformedVarint`, or the value and its length. -/
def completeDecode (r : DecodeResult) (lv : LaneWord) (s : State) : StepOutcome :=
  match r with
  | .malformed => .next (s.raise .malformed)
  | .ok value last => .next (s.respond (decodedRsp value last lv))

/-- Complete an advancing decode (R504): as `completeDecode`, and the cursor moves by the bytes consumed only when the
request succeeds (R706). -/
def completeAdvance (r : DecodeResult) (lv : LaneWord) (s : State) : StepOutcome :=
  match r with
  | .malformed => .next (s.raise .malformed)
  | .ok value last =>
    .next ((s.setCursor (advanceCursor s.engine.cursor last)).respond (decodedRsp value last lv))

end Sys2Proof.Machine
end

