-- ==== Sys2Proof/Machine/CursorAccess.lean ====
section
/-!
DEFINITION. The requests SET_CURSOR and GET_CURSOR (42_cursor_access.md R600, R601).
-/

namespace Sys2Proof.Machine

/-- `SET_CURSOR` (R600): any 32-bit value is accepted. `LV_IN` is ignored. -/
def execSetCursor (offset : Word) (_lvIn : LaneWord) (s : State) : StepOutcome :=
  .next ((s.setCursor offset).respond (packRsp .ok 0#32 0#3 0#3 0#64))

/-- `GET_CURSOR` (R601): the cursor in `VALUE`. Both operand fields are ignored. -/
def execGetCursor (_offset : Word) (_lvIn : LaneWord) (s : State) : StepOutcome :=
  .next (s.respond (packRsp .ok s.engine.cursor 0#3 0#3 0#64))

end Sys2Proof.Machine
end

