-- ==== Sys2Proof/Machine/DecodeRequest.lean ====
section
/-!
DEFINITION. The request DECODE (40_decode_engine.md R420) and the reserved row (60_exceptions.md R703).
-/

namespace Sys2Proof.Machine

/-- `DECODE` (R420): decode the lane vector the host supplies. `OFFSET` is ignored. -/
def execDecode (_offset : Word) (lvIn : LaneWord) (s : State) : StepOutcome :=
  completeDecode (decodeLanes (unpackLanes lvIn)) lvIn s

/-- A request word that selects no operation (R309, R703): `IllegalRequest`, before anything else. -/
def execIllegal (_ctl _offset : Word) (_lvIn : LaneWord) (s : State) : StepOutcome :=
  .next (s.raise .illegalRequest)

end Sys2Proof.Machine
end

