-- ==== Sys2Proof/Machine/Reads.lean ====
section
/-!
DEFINITION. The requests that load from the window: LOAD, READ_AT, PEEK, READ_ADV (41_load_and_read.md R501 to R504).
-/

namespace Sys2Proof.Machine

/-- `LOAD` (R501): load a lane vector without decoding it. `LV_IN` is ignored. -/
def execLoad (offset : Word) (_lvIn : LaneWord) (s : State) : StepOutcome :=
  withLoaded offset s fun _ L t => .next (t.respond (packRsp .ok 0#32 0#3 0#3 (packLanes L)))

/-- `READ_AT` (R502): decode at an explicit offset. `LV_IN` is ignored. -/
def execReadAt (offset : Word) (_lvIn : LaneWord) (s : State) : StepOutcome :=
  withLoaded offset s fun n L t => completeDecode (decodeLoaded blockPolicy n L) (packLanes L) t

/-- `PEEK` (R503): decode at the cursor without moving it. Both operand fields are ignored. -/
def execPeek (_offset : Word) (_lvIn : LaneWord) (s : State) : StepOutcome :=
  withLoaded s.engine.cursor s fun n L t => completeDecode (decodeLoaded blockPolicy n L) (packLanes L) t

/-- `READ_ADV` (R504): decode at the cursor and advance it. Both operand fields are ignored. -/
def execReadAdv (_offset : Word) (_lvIn : LaneWord) (s : State) : StepOutcome :=
  withLoaded s.engine.cursor s fun n L t => completeAdvance (decodeLoaded blockPolicy n L) (packLanes L) t

end Sys2Proof.Machine
end

