-- ==== Sys2Proof/Machine/Dispatch.lean ====
section
/-!
DEFINITION. One arm for each request of the opcode map (30_encoding.md R307).
-/

namespace Sys2Proof.Machine

def exec (i : Instr) (s : State) : Host.Outcome State Fault Refusal :=
  match i with
  | .decode offset lvIn => Sys2Proof.Machine.execDecode offset lvIn s
  | .load offset lvIn => Sys2Proof.Machine.execLoad offset lvIn s
  | .readAt offset lvIn => Sys2Proof.Machine.execReadAt offset lvIn s
  | .peek offset lvIn => Sys2Proof.Machine.execPeek offset lvIn s
  | .readAdv offset lvIn => Sys2Proof.Machine.execReadAdv offset lvIn s
  | .setCursor offset lvIn => Sys2Proof.Machine.execSetCursor offset lvIn s
  | .getCursor offset lvIn => Sys2Proof.Machine.execGetCursor offset lvIn s
  | .illegal ctl offset lvIn => Sys2Proof.Machine.execIllegal ctl offset lvIn s

end Sys2Proof.Machine
end

