-- ==== Sys2Proof/Machine/HostActions.lean ====
section
/-!
DEFINITION. What one action of the host does (00_scope.md R15; 20_memory.md R213, R214; 60_exceptions.md R714;
70_reset_and_hazards.md R800, R801). Assumption log 1.
-/

namespace Sys2Proof.Machine

/-- Put a window on the window port of the instance in front (R200, R213). -/
def State.setWindow (s : State) (w : Window) : State :=
  { s with engine := { s.engine with window := w } }

/-- While the request in progress runs, the host changes the window to `r`, or leaves it alone (R214). -/
def State.setRacing (s : State) (r : Option Window) : State := { s with racing := r }

/-- The host presents a request and keeps its duty of R214: the engine decodes and runs it (R300, R308). In reset no
request is accepted (R801). -/
def present (req : ReqWord) (s : State) : StepOutcome :=
  if s.engine.inReset then .fault .requestDuringReset
  else exec (decodeReq req) (s.setRacing none)

/-- After a request during which the host changed the window: the new window is in place and the request is over. -/
def settle (w : Window) : StepOutcome → StepOutcome
  | .next t => .next ((t.setWindow w).setRacing none)
  | .fault f => .fault f
  | .refused r => .refused r

/-- The host presents a request and changes the window while it runs (R214). Assumption log 7. -/
def presentRacing (req : ReqWord) (len : Nat) (cells : List Host.Cell) (s : State) : StepOutcome :=
  match Window.ofCells len cells with
  | none => .refused .windowTooLong
  | some w =>
    if s.engine.inReset then .fault .requestDuringReset
    else settle w (exec (decodeReq req) (s.setRacing (some w)))

/-- The host changes the window between two requests (R213). -/
def setWindow (len : Nat) (cells : List Host.Cell) (s : State) : StepOutcome :=
  match Window.ofCells len cells with
  | none => .refused .windowTooLong
  | some w => .next (s.setWindow w)

/-- The host turns to the `k`-th of the other instances; the one it leaves takes that place (R714). Assumption log 3. -/
def selectEngine (k : Nat) (s : State) : StepOutcome :=
  match s.others[k]? with
  | none => .refused .noSuchEngine
  | some e => .next { s with engine := e, others := s.others.set k s.engine }

/-- Reset acts on the instance in front alone (R714): `CURSOR = 0` (R800), and no request is accepted until it is
released (R801). It does not act on the window (R111, R800). Assumption log 9. -/
def assertReset (s : State) : StepOutcome :=
  .next { s with engine := { s.engine with cursor := 0x00000000#32, inReset := true } }

/-- Reset ends (R800, R802). -/
def releaseReset (s : State) : StepOutcome :=
  .next { s with engine := { s.engine with inReset := false } }

/-- One action of the host. -/
def hostAct (a : HostAction) (s : State) : StepOutcome :=
  match a with
  | .present req => present req s
  | .presentRacing req len cells => presentRacing req len cells s
  | .setWindow len cells => setWindow len cells s
  | .selectEngine k => selectEngine k s
  | .assertReset => assertReset s
  | .releaseReset => releaseReset s

end Sys2Proof.Machine
end

