-- ==== Sys2Proof/Machine/Step.lean ====
section
/-!
DEFINITION. One step: the host's next action, and with it the request the engine runs (00_scope.md R15). The block
fetches nothing and has no program counter (20_memory.md R218, 10_state.md R110).
-/

namespace Sys2Proof.Machine

/-- One step. With no action left the engine is idle, and idling changes no state (R716; assumption log 21). -/
def step (s : State) : Host.Outcome State Fault Refusal :=
  match s.host with
  | [] => .next s
  | a :: rest => hostAct a { s with host := rest }

/-- `s` with the request word whose low `nbits` bits are `w` as the host's next action, and the instance in front not
in reset, so that the next step runs that request. Assumption log 1. -/
def State.withFetchWord (s : State) (nbits w : Nat) : State :=
  { s with
    engine := { s.engine with inReset := false }
    host := .present (tableReq nbits w) :: s.host }

end Sys2Proof.Machine
end

