-- ==== Sys2Proof/Machine/Assembler.lean ====
section
/-!
DEFINITION. The assembler syntax and the pseudo-instruction `vde.rewind` (30_encoding.md R311, R312), as operand forms
and mnemonics; the characters of a line are not parsed (assumption log 18).
-/

namespace Sys2Proof.Machine

/-- An `<off>` (R311): a signed decimal or a 32-bit hex number. -/
inductive OffArg where
  | dec (n : Int)
  | hex (w : Word)
  deriving DecidableEq, Repr

/-- An `<lv>` (R311): a 64-bit hex number, or a brace list of 1 to 8 bytes, lane 0 first. -/
inductive LvArg where
  | hex (w : LaneWord)
  | bytes (bs : List Byte)
  deriving DecidableEq, Repr

/-- One line of an assembler program (R311, R312). -/
inductive AsmLine where
  | decode (lv : LvArg)
  | load (off : OffArg)
  | readAt (off : OffArg)
  | peek
  | readAdv
  | setCursor (off : OffArg)
  | getCursor
  | rewind
  deriving DecidableEq, Repr

/-- The mnemonic of a line (R311, R312). -/
def AsmLine.mnemonic : AsmLine → String
  | .decode _ => "vde.decode"
  | .load _ => "vde.load"
  | .readAt _ => "vde.read_at"
  | .peek => "vde.peek"
  | .readAdv => "vde.read_adv"
  | .setCursor _ => "vde.set_cursor"
  | .getCursor => "vde.get_cursor"
  | .rewind => "vde.rewind"

/-- The `OFFSET` field of an `<off>`; none for a decimal with no 32-bit two's-complement form (R302). -/
def OffArg.word : OffArg → Option Word
  | .dec n => if -2 ^ 31 ≤ n ∧ n < 2 ^ 31 then some (BitVec.ofInt 32 n) else none
  | .hex w => some w

/-- The `LV_IN` field of an `<lv>`; missing lanes are zero; none for a list of no byte or of more than 8 (R311). -/
def LvArg.word : LvArg → Option LaneWord
  | .hex w => some w
  | .bytes bs =>
    if 1 ≤ bs.length ∧ bs.length ≤ 8 then some (packLanes fun i => bs.getD i.val 0x00#8) else none

/-- The request of a line; fields the request ignores are zero (R301, R311). -/
def AsmLine.instr : AsmLine → Option Instr
  | .decode lv => lv.word.map (Instr.decode 0#32)
  | .load off => off.word.map (Instr.load · 0#64)
  | .readAt off => off.word.map (Instr.readAt · 0#64)
  | .peek => some (.peek 0#32 0#64)
  | .readAdv => some (.readAdv 0#32 0#64)
  | .setCursor off => off.word.map (Instr.setCursor · 0#64)
  | .getCursor => some (.getCursor 0#32 0#64)
  | .rewind => some (.setCursor 0#32 0#64)

/-- The request word of a line (R311). -/
def AsmLine.assemble (l : AsmLine) : Option ReqWord := l.instr.map encode

end Sys2Proof.Machine
end

