-- ==== Sys2Proof/Safety.lean ====
section
/-!
DEFINITION. The terms in which claims about the machine are stated: closed forms of the spec that do not mention how
the model computes them, the invariant, and a host that keeps its duties.
-/

namespace Sys2Proof

open Sys2Proof.Machine

/-! ### Request and response words -/

/-- The fields of a response word (30_encoding.md R304): `STATUS`, `LAST`, `CONSUMED`, the reserved bits zero, `VALUE`,
and lane i of `LV_OUT`. Together they fix all 128 bits. -/
abbrev RspIs (rsp : RspWord) (status last consumed : Nat) (value : Word) (lane : Nat → Byte) : Prop :=
  (rsp.extractLsb' 0 2).toNat = status ∧ (rsp.extractLsb' 2 3).toNat = last ∧
  (rsp.extractLsb' 5 3).toNat = consumed ∧ rsp.extractLsb' 8 24 = 0#24 ∧ rsp.extractLsb' 32 32 = value ∧
  ∀ i : Nat, i < 8 → rsp.extractLsb' (64 + 8 * i) 8 = lane i

/-- The fields of a request word (30_encoding.md R300): `CTL`, `OFFSET` and `LV_IN`. Together they fix all 128 bits. -/
abbrev ReqIs (req : ReqWord) (ctl offset : Word) (lvIn : LaneWord) : Prop :=
  req.extractLsb' 0 32 = ctl ∧ req.extractLsb' 32 32 = offset ∧ req.extractLsb' 64 64 = lvIn

/-- An error response (R306): every field but `STATUS` is zero. -/
abbrev RspIsError (rsp : RspWord) (status : Nat) : Prop := RspIs rsp status 0 0 0#32 (fun _ => 0x00#8)

/-- `s` after a request that answered `rsp` and changed nothing else. -/
def Machine.State.answered (s : State) (rsp : RspWord) : State :=
  { s with engine := { s.engine with responses := rsp :: s.engine.responses } }

/-- `s` with another cursor. -/
def Machine.State.atCursor (s : State) (c : Word) : State := { s with engine := { s.engine with cursor := c } }

/-- `s` with another window on the port of the instance in front. -/
def Machine.State.onWindow (s : State) (w : Window) : State := { s with engine := { s.engine with window := w } }

/-! ### Varints -/

/-- Lane i of a lane vector, as a function of a number. -/
def laneAt (L : Lanes) (i : Nat) : Byte := if h : i < 8 then L ⟨i, h⟩ else 0x00#8

/-- The bytes of a sequence form a varint that terminates at byte `k` (R402): byte `k` is the first whose continuation
bit is clear. -/
abbrev TerminatesAt (byte : Nat → Byte) (k : Nat) : Prop :=
  (∀ j < k, 128 ≤ (byte j).toNat) ∧ (byte k).toNat < 128

/-- `value = trunc_32(sum of payload i * 2^(7 i))` over bytes 0..last (40_decode_engine.md R409). -/
def varintValue (byte : Nat → Byte) (last : Nat) : Word :=
  BitVec.ofNat 32 (∑ i ∈ Finset.range (last + 1), (byte i).toNat % 128 * 2 ^ (7 * i))

/-- The base-128 groups of a number, least significant first, continuation bit on all but the last, at most
`fuel + 1` of them (00_scope.md R3, R14). -/
def base128 : Nat → Nat → List Byte
  | 0, v => [BitVec.ofNat 8 (v % 128)]
  | fuel + 1, v =>
    if v < 128 then [BitVec.ofNat 8 v] else BitVec.ofNat 8 (128 + v % 128) :: base128 fuel (v / 128)

/-- The minimal varint of a 32-bit pattern, 1 to 5 bytes: what the encoder of property A8 (95_test_vectors.md) gives.
The block has no encode path (R7); this is a term of claims only. -/
def minimalVarint (v : Word) : List Byte := base128 4 v.toNat

/-! ### The window -/

/-- An offset that has bytes to begin a decode (41_load_and_read.md R500). -/
abbrev OffsetIn (off : Word) (len : Nat) : Prop := 0 ≤ off.toInt ∧ off.toInt < (len : Int)

/-- Lane i of a load at index `a` (20_memory.md R206, R207): the window's byte, or the zero fill. -/
def windowLane (w : Window) (a i : Nat) : Byte := if a + i < w.len then w.bytes.read (a + i) else 0x00#8

/-- Lane i of the load at an offset. -/
def laneFrom (w : Window) (off : Word) (i : Nat) : Byte := windowLane w off.toInt.toNat i

/-- The window holds these bytes from an offset on. -/
abbrev HoldsAt (w : Window) (off : Word) (bs : List Byte) : Prop :=
  0 ≤ off.toInt ∧ ∀ (i : Nat) (h : i < bs.length), w.read? (off.toInt.toNat + i) = some bs[i]

/-- The offset a request loads from, if it loads (60_exceptions.md R701). -/
def loadsFrom : Instr → State → Option Word
  | .load offset _, _ => some offset
  | .readAt offset _, _ => some offset
  | .peek _ _, s => some s.engine.cursor
  | .readAdv _ _, s => some s.engine.cursor
  | .decode _ _, _ => none
  | .setCursor _ _, _ => none
  | .getCursor _ _, _ => none
  | .illegal _ _ _, _ => none

/-- The lanes a request decodes, if it decodes (R702), the host leaving the window alone meanwhile. -/
def decodesLanes : Instr → State → Option (Nat → Byte)
  | .decode _ lvIn, _ => some (fun i => lvIn.extractLsb' (8 * i) 8)
  | .readAt offset _, s => some (laneFrom s.engine.window offset)
  | .peek _ _, s => some (laneFrom s.engine.window s.engine.cursor)
  | .readAdv _ _, s => some (laneFrom s.engine.window s.engine.cursor)
  | .load _ _, _ => none
  | .setCursor _ _, _ => none
  | .getCursor _ _, _ => none
  | .illegal _ _ _, _ => none

/-! ### The invariant -/

/-- Between steps no request is in progress (R800), and every instance's window is one the spec allows, its bytes in
canonical form (R200). -/
def Machine.State.Inv (s : State) : Prop :=
  s.racing = none ∧ s.engine.window.wf ∧ ∀ e ∈ s.others, e.window.wf

/-- A window a host action puts in place is no longer than `MAX_SRC_LEN` (R8, R200). -/
def Machine.HostAction.fits : HostAction → Prop
  | .presentRacing _ len _ => len ≤ Config.maxSrcLen.val
  | .setWindow len _ => len ≤ Config.maxSrcLen.val
  | .present _ => True
  | .selectEngine _ => True
  | .assertReset => True
  | .releaseReset => True

/-- Every window of the platform, now and in the host's remaining actions, is no longer than `MAX_SRC_LEN`. -/
def Machine.State.WindowsFit (s : State) : Prop :=
  s.engine.window.len ≤ Config.maxSrcLen.val ∧ (∀ e ∈ s.others, e.window.len ≤ Config.maxSrcLen.val) ∧
  ∀ a ∈ s.host, a.fits

/-! ### A host that keeps its duties -/

/-- The host's actions keep its duties, given which instances are in reset: no window changed during a request (R214,
R805), no request presented in reset (R801), no window longer than 2^31 - 1 (R200), no instance the platform lacks. -/
def keepsDuties : Bool → List Bool → List HostAction → Bool
  | _, _, [] => true
  | r, o, .present _ :: rest => !r && keepsDuties r o rest
  | _, _, .presentRacing _ _ _ :: _ => false
  | r, o, .setWindow len _ :: rest => decide (len ≤ Config.windowLimit) && keepsDuties r o rest
  | r, o, .selectEngine k :: rest =>
    match o[k]? with
    | none => false
    | some r' => keepsDuties r' (o.set k r) rest
  | _, o, .assertReset :: rest => keepsDuties true o rest
  | _, o, .releaseReset :: rest => keepsDuties false o rest

/-- The host's remaining actions keep its duties from this state on. -/
def Machine.State.dutiful (s : State) : Bool :=
  keepsDuties s.engine.inReset (s.others.map (·.inReset)) s.host

end Sys2Proof
end

