-- ==== Sys2Proof/Certificates/Slice0/Obligations.lean ====
section
/-!
DEFINITION. The statements for the provers. Each docstring names the rule of spec/ it formalises, or says that the clause
is the model's own and names the log entry. Rules R403, R409, R411, R412, R506 to R510, R707 and R807 are inferences the
spec marks as its own; a statement about one of them is listed as derived from the rules it rests on.
-/

section Encoding

open Sys2Proof Sys2Proof.Machine

/-- Decoding the encoding of a well-formed request gives it back: no bit is dropped (R300, R307). -/
def Obligations.DecodeInvertsEncode : Prop :=
  ∀ i : Instr, i.wf = true → decodeReq (encode i) = i

/-- Every request word decodes to a well-formed request, whose encoding is that word (R300, R308). -/
def Obligations.EncodeInvertsDecode : Prop :=
  ∀ req : ReqWord, (decodeReq req).wf = true ∧ encode (decodeReq req) = req

/-- `DecodeReq` (R308), word by word: `RSV ≠ 0` or `OP = 111` is illegal, every other word is the operation of its
`OP`; `OFFSET` and `LV_IN` take no part in the selection. -/
def Obligations.DecodeSelectsByControlWord : Prop :=
  ∀ req : ReqWord,
    (req.extractLsb' 3 29 ≠ 0#29 ∨ req.extractLsb' 0 3 = 7#3 →
      decodeReq req = .illegal (req.extractLsb' 0 32) (req.extractLsb' 32 32) (req.extractLsb' 64 64)) ∧
    (req.extractLsb' 3 29 = 0#29 →
      (req.extractLsb' 0 3 = 0#3 → decodeReq req = .decode (req.extractLsb' 32 32) (req.extractLsb' 64 64)) ∧
      (req.extractLsb' 0 3 = 1#3 → decodeReq req = .load (req.extractLsb' 32 32) (req.extractLsb' 64 64)) ∧
      (req.extractLsb' 0 3 = 2#3 → decodeReq req = .readAt (req.extractLsb' 32 32) (req.extractLsb' 64 64)) ∧
      (req.extractLsb' 0 3 = 3#3 → decodeReq req = .peek (req.extractLsb' 32 32) (req.extractLsb' 64 64)) ∧
      (req.extractLsb' 0 3 = 4#3 → decodeReq req = .readAdv (req.extractLsb' 32 32) (req.extractLsb' 64 64)) ∧
      (req.extractLsb' 0 3 = 5#3 → decodeReq req = .setCursor (req.extractLsb' 32 32) (req.extractLsb' 64 64)) ∧
      (req.extractLsb' 0 3 = 6#3 → decodeReq req = .getCursor (req.extractLsb' 32 32) (req.extractLsb' 64 64)))

/-- Request words the spec writes out (R311, R420, R600, 95_test_vectors.md) decode to the requests they stand for. -/
def Obligations.WrittenWordsDecode : Prop :=
  decodeReq 0x0000000000268EE5_00000000_00000000#128 = .decode 0#32 0x268EE5#64 ∧
  decodeReq 0x0000000000000000_FFFFFFFF_00000001#128 = .load 0xFFFFFFFF#32 0#64 ∧
  decodeReq 0x0000000000000000_FFFFFFFF_00000002#128 = .readAt 0xFFFFFFFF#32 0#64 ∧
  decodeReq 0x0000000000000000_00000000_00000003#128 = .peek 0#32 0#64 ∧
  decodeReq 0x0000000000000000_00000000_00000004#128 = .readAdv 0#32 0#64 ∧
  decodeReq 0x0000000000000000_00000003_00000005#128 = .setCursor 3#32 0#64 ∧
  decodeReq 0x0000000000000000_00000000_00000006#128 = .getCursor 0#32 0#64 ∧
  decodeReq 0x0000000000000000_00000000_80000004#128 = .illegal 0x80000004#32 0#32 0#64

/-- A request's meaning does not depend on the operand fields it ignores (R301, X17). -/
def Obligations.IgnoredFieldsHaveNoEffect : Prop :=
  ∀ (o o' : Word) (l l' : LaneWord) (s : State),
    exec (.decode o l) s = exec (.decode o' l) s ∧ exec (.load o l) s = exec (.load o l') s ∧
    exec (.readAt o l) s = exec (.readAt o l') s ∧ exec (.peek o l) s = exec (.peek o' l') s ∧
    exec (.readAdv o l) s = exec (.readAdv o' l') s ∧ exec (.setCursor o l) s = exec (.setCursor o l') s ∧
    exec (.getCursor o l) s = exec (.getCursor o' l') s

/-- The table of R311 and the pseudo-instruction of R312, line by line: the mnemonic, and `CTL`, `OFFSET` and `LV_IN` of the
word a line assembles to, the ignored fields zero; and the operand forms: a decimal is the 32-bit word that reads as it,
hex is itself, and a brace list of 1 to 8 bytes has lane 0 first and its missing lanes zero. The characters are not parsed
(log 18). -/
def Obligations.AssembledWordsHaveTableFields : Prop :=
  (∀ (lv : LvArg) (w : LaneWord), lv.word = some w → (AsmLine.decode lv).mnemonic = "vde.decode" ∧
    ∃ req, (AsmLine.decode lv).assemble = some req ∧ ReqIs req 0#32 0#32 w) ∧
  (∀ (off : OffArg) (w : Word), off.word = some w →
    ((AsmLine.load off).mnemonic = "vde.load" ∧
      ∃ req, (AsmLine.load off).assemble = some req ∧ ReqIs req 1#32 w 0#64) ∧
    ((AsmLine.readAt off).mnemonic = "vde.read_at" ∧
      ∃ req, (AsmLine.readAt off).assemble = some req ∧ ReqIs req 2#32 w 0#64) ∧
    ((AsmLine.setCursor off).mnemonic = "vde.set_cursor" ∧
      ∃ req, (AsmLine.setCursor off).assemble = some req ∧ ReqIs req 5#32 w 0#64)) ∧
  (AsmLine.peek.mnemonic = "vde.peek" ∧ ∃ req, AsmLine.peek.assemble = some req ∧ ReqIs req 3#32 0#32 0#64) ∧
  (AsmLine.readAdv.mnemonic = "vde.read_adv" ∧ ∃ req, AsmLine.readAdv.assemble = some req ∧ ReqIs req 4#32 0#32 0#64) ∧
  (AsmLine.getCursor.mnemonic = "vde.get_cursor" ∧
    ∃ req, AsmLine.getCursor.assemble = some req ∧ ReqIs req 6#32 0#32 0#64) ∧
  (AsmLine.rewind.mnemonic = "vde.rewind" ∧ AsmLine.rewind.assemble = (AsmLine.setCursor (.dec 0)).assemble ∧
    ∃ req, AsmLine.rewind.assemble = some req ∧ ReqIs req 5#32 0#32 0#64) ∧
  (∀ w : Word, (OffArg.hex w).word = some w) ∧
  (∀ n : Int, -2 ^ 31 ≤ n → n ≤ 2 ^ 31 - 1 → ∃ w : Word, (OffArg.dec n).word = some w ∧ w.toInt = n) ∧
  (∀ w : LaneWord, (LvArg.hex w).word = some w) ∧
  ∀ bs : List Byte, 1 ≤ bs.length → bs.length ≤ 8 → ∃ w : LaneWord, (LvArg.bytes bs).word = some w ∧
    ∀ i : Nat, i < 8 → w.extractLsb' (8 * i) 8 = bs.getD i 0x00#8

end Encoding

section DecodeEngine

open Sys2Proof Sys2Proof.Machine

/-- The two ROM tables: entry i of `SHIFT_LUT` is 7 * i (R102), and bit j of entry i of `MASK_TABLE` is set exactly when
j ≤ i (R104), for each of their five entries. -/
def Obligations.RomTableEntries : Prop :=
  (∀ i : Fin 5, (shiftLut[i]).toNat = 7 * i.val) ∧
  ∀ (i : Fin 5) (j : Fin 8), (maskTable[i]).getLsbD j.val = decide (j.val ≤ i.val)

/-- Lane i of `LV_IN` is bits 64+8i+7..64+8i of the request (R303), and packing lanes is the inverse. -/
def Obligations.LanePackingIsLittleEndian : Prop :=
  (∀ (req : ReqWord) (i : Fin 8), unpackLanes req.lvIn i = req.extractLsb' (64 + 8 * i.val) 8) ∧
  (∀ lv : LaneWord, packLanes (unpackLanes lv) = lv) ∧ ∀ L : Lanes, unpackLanes (packLanes L) = L

/-- The continuation mask (R401): bit i is bit 7 of lane i, which is set exactly when the lane is at least 0x80 read
unsigned. -/
def Obligations.ContinuationMaskBits : Prop :=
  ∀ (L : Lanes) (i : Fin 8), continuationMask L i = (L i).getLsbD 7 ∧
    (continuationMask L i = true ↔ 0x80 ≤ (L i).toNat)

/-- `Decode` is malformed exactly when lanes 0..4 all have bit 7 set (R403), whatever lanes 5..7 hold. -/
def Obligations.MalformedExactlyWhenFiveContinue : Prop :=
  ∀ L : Lanes, decodeLanes L = .malformed ↔
    (L 0).getLsbD 7 = true ∧ (L 1).getLsbD 7 = true ∧ (L 2).getLsbD 7 = true ∧ (L 3).getLsbD 7 = true ∧
      (L 4).getLsbD 7 = true

/-- Length resolution (R402; property A9): `last` is reported exactly when lane `last`, one of 0..4, is the first whose
continuation bit is clear. -/
def Obligations.LastIsFirstClearLane : Prop :=
  ∀ (L : Lanes) (last : Fin 5), (∃ v : Word, decodeLanes L = .ok v last) ↔ TerminatesAt (laneAt L) last.val

/-- The closed form of the value (R409), as a sum and bit by bit. -/
def Obligations.DecodedValueClosedForm : Prop :=
  ∀ (L : Lanes) (v : Word) (last : Fin 5), decodeLanes L = .ok v last →
    v = varintValue (laneAt L) last.val ∧
    (∀ i : Nat, i ≤ min last.val 3 → v.extractLsb' (7 * i) 7 = (laneAt L i).extractLsb' 0 7) ∧
    (last.val = 4 → v.extractLsb' 28 4 = (laneAt L 4).extractLsb' 0 4) ∧
    (last.val ≤ 3 → v.toNat < 2 ^ (7 * (last.val + 1)))

/-- Bits 6..4 of lane 4 are dropped: they change neither value nor length, and no error results (R410); the value is
read as two's complement, as in the source's two examples. -/
def Obligations.HighBitsOfFifthByteDropped : Prop :=
  (∀ L L' : Lanes, (∀ i : Fin 8, i ≠ 4 → L i = L' i) → (L 4).getLsbD 7 = (L' 4).getLsbD 7 →
    (L 4).extractLsb' 0 4 = (L' 4).extractLsb' 0 4 → decodeLanes L = decodeLanes L') ∧
  (∃ v, decodeLanes (unpackLanes 0x0000000880808080#64) = .ok v 4 ∧ v.toInt = -2147483648) ∧
  ∃ v, decodeLanes (unpackLanes 0x0000000FFFFFFFFF#64) = .ok v 4 ∧ v.toInt = -1

/-- The result depends only on lanes 0..min(k, 4), where k is the first lane whose continuation bit is clear, or 8
(R411). -/
def Obligations.DiscardedLanesHaveNoEffect : Prop :=
  ∀ (L L' : Lanes) (k : Nat), k ≤ 8 → (∀ i : Fin 8, i.val < k → (L i).getLsbD 7 = true) →
    (∀ i : Fin 8, i.val = k → (L i).getLsbD 7 = false) →
    (∀ i : Fin 8, i.val ≤ min k 4 → L' i = L i) → decodeLanes L' = decodeLanes L

/-- A non-minimal encoding is accepted (R412): lengthening a varint of at most four bytes by a zero group gives the same
value, one byte longer. -/
def Obligations.NonMinimalEncodingAccepted : Prop :=
  ∀ (L L' : Lanes) (v : Word) (last next : Fin 5), decodeLanes L = .ok v last → next.val = last.val + 1 →
    (∀ i : Fin 8, i.val < last.val → L' i = L i) →
    L' (last.castLE (by decide)) = L (last.castLE (by decide)) ||| 0x80#8 →
    L' (next.castLE (by decide)) = 0x00#8 → decodeLanes L' = .ok v next

/-- Round trip (property A8): lanes that begin with the minimal varint of a 32-bit pattern decode to that pattern, and
the bytes consumed are the varint's length. -/
def Obligations.MinimalVarintRoundTrip : Prop :=
  ∀ (v : Word) (L : Lanes),
    (∀ (i : Nat) (h : i < (minimalVarint v).length), laneAt L i = (minimalVarint v)[i]) →
    ∃ last : Fin 5, decodeLanes L = .ok v last ∧ last.val + 1 = (minimalVarint v).length

/-- A varint that lies wholly in the window decodes alike under both policies of X9; a truncated one is malformed under
the policy `malformed`. The parameter is the spec's (X9); that the block is `literal` is R506 (log 11). -/
def Obligations.TruncatedPoliciesDifferOnlyAtWindowEnd : Prop :=
  ∀ (L : Lanes) (n : Nat) (v : Word) (last : Fin 5), decodeLanes L = .ok v last →
    decodeLoaded .literal n L = .ok v last ∧ (last.val < n → decodeLoaded .malformed n L = .ok v last) ∧
    (n ≤ last.val → decodeLoaded .malformed n L = .malformed)

end DecodeEngine

section Requests

open Sys2Proof Sys2Proof.Machine

/-- `DECODE` completes with the value, the length and its own lane vector, and writes no state (R420). -/
def Obligations.DecodeRequestReturnsValue : Prop :=
  ∀ (s : State) (o : Word) (lv : LaneWord) (last : Nat), last ≤ 4 →
    TerminatesAt (fun i => lv.extractLsb' (8 * i) 8) last →
    ∃ r, exec (.decode o lv) s = .next (s.answered r) ∧
      RspIs r 0 last (last + 1) (varintValue (fun i => lv.extractLsb' (8 * i) 8) last)
        (fun i => lv.extractLsb' (8 * i) 8)

/-- `DECODE` of a lane vector whose lanes 0..4 all continue answers `MalformedVarint` and writes no state (R420,
R702). -/
def Obligations.DecodeRequestReportsMalformed : Prop :=
  ∀ (s : State) (o : Word) (lv : LaneWord),
    (∀ i : Nat, i < 5 → (lv.extractLsb' (8 * i) 8).getLsbD 7 = true) →
    ∃ r, exec (.decode o lv) s = .next (s.answered r) ∧ RspIsError r 2

/-- `LOAD` at an offset in range completes with the window's bytes from that offset, zero-filled beyond the window's end,
and writes no state (R501, R206, R207). -/
def Obligations.LoadReturnsWindowLanes : Prop :=
  ∀ (s : State) (off : Word) (lv : LaneWord), s.racing = none → OffsetIn off s.engine.window.len →
    ∃ r, exec (.load off lv) s = .next (s.answered r) ∧ RspIs r 0 0 0 0#32 (laneFrom s.engine.window off)

/-- `READ_AT` at an offset in range where a varint terminates within five lanes completes with its value and length;
the cursor and all else stay (R502, R409). -/
def Obligations.ReadAtReturnsValue : Prop :=
  ∀ (s : State) (off : Word) (lv : LaneWord) (last : Nat), s.racing = none → OffsetIn off s.engine.window.len →
    last ≤ 4 → TerminatesAt (laneFrom s.engine.window off) last →
    ∃ r, exec (.readAt off lv) s = .next (s.answered r) ∧
      RspIs r 0 last (last + 1) (varintValue (laneFrom s.engine.window off) last) (laneFrom s.engine.window off)

/-- `PEEK` with the cursor in range where a varint terminates within five lanes completes with its value and length; the
cursor and all else stay (R503, R409). -/
def Obligations.PeekReturnsValueAtCursor : Prop :=
  ∀ (s : State) (o : Word) (lv : LaneWord) (last : Nat), s.racing = none →
    OffsetIn s.engine.cursor s.engine.window.len → last ≤ 4 →
    TerminatesAt (laneFrom s.engine.window s.engine.cursor) last →
    ∃ r, exec (.peek o lv) s = .next (s.answered r) ∧
      RspIs r 0 last (last + 1) (varintValue (laneFrom s.engine.window s.engine.cursor) last)
        (laneFrom s.engine.window s.engine.cursor)

/-- `READ_ADV` with the cursor in range where a varint terminates within five lanes completes with its value and length
and moves the cursor by the bytes consumed; all else stays (R504, R409). -/
def Obligations.ReadAdvReturnsValueAndAdvances : Prop :=
  ∀ (s : State) (o : Word) (lv : LaneWord) (last : Nat), s.racing = none →
    OffsetIn s.engine.cursor s.engine.window.len → last ≤ 4 →
    TerminatesAt (laneFrom s.engine.window s.engine.cursor) last →
    ∃ r, exec (.readAdv o lv) s =
        .next ((s.answered r).atCursor (s.engine.cursor + BitVec.ofNat 32 (last + 1))) ∧
      RspIs r 0 last (last + 1) (varintValue (laneFrom s.engine.window s.engine.cursor) last)
        (laneFrom s.engine.window s.engine.cursor)

/-- `READ_AT`, `PEEK` and `READ_ADV` answer `MalformedVarint` where an offset in range begins five bytes that all
continue; the cursor and all else stay (R502 to R504, R702, R706). -/
def Obligations.ReadsReportMalformed : Prop :=
  ∀ (s : State) (off : Word) (i : Instr), s.racing = none →
    (∃ lv, i = .readAt off lv) ∨ (off = s.engine.cursor ∧ ∃ o lv, i = .peek o lv ∨ i = .readAdv o lv) →
    OffsetIn off s.engine.window.len → (∀ j : Nat, j < 5 → 128 ≤ (laneFrom s.engine.window off j).toNat) →
    ∃ r, exec i s = .next (s.answered r) ∧ RspIsError r 2

/-- A request that loads, at an offset or cursor that is negative or at least the readable length at its start, answers
`OutOfRange` and writes no state, also when the host changes the window meanwhile (R500, R701). -/
def Obligations.LoadsOutOfRangeReportIt : Prop :=
  ∀ (s : State) (off : Word) (i : Instr), loadsFrom i s = some off →
    off.toInt < 0 ∨ (s.engine.window.len : Int) ≤ off.toInt →
    ∃ r, exec i s = .next (s.answered r) ∧ RspIsError r 1

/-- With an empty window every request that loads answers `OutOfRange`, whatever the offset or cursor, without reading
memory: no bytes the memory may list have an effect, nor has a change of the window meanwhile (R508). -/
def Obligations.EmptyWindowIsOutOfRange : Prop :=
  ∀ (s : State) (i : Instr) (off : Word) (m : Memory), loadsFrom i s = some off → s.engine.window.len = 0 →
    ∃ r, exec i s = .next (s.answered r) ∧ RspIsError r 1 ∧
      exec i (s.onWindow { len := 0, bytes := m }) =
        .next ((s.answered r).onWindow { len := 0, bytes := m })

/-- `SET_CURSOR` (R600), the request of control word 5: it writes `OFFSET` to the cursor, any value, and answers OK with
every field zero; nothing else changes. -/
def Obligations.SetCursorWritesOffset : Prop :=
  (∀ req : ReqWord, req.extractLsb' 0 32 = 5#32 →
    decodeReq req = .setCursor (req.extractLsb' 32 32) (req.extractLsb' 64 64)) ∧
  ∀ (s : State) (off : Word) (lv : LaneWord),
    ∃ r, exec (.setCursor off lv) s = .next ((s.answered r).atCursor off) ∧
      RspIs r 0 0 0 0#32 (fun _ => 0x00#8)

/-- `GET_CURSOR` (R601), the request of control word 6: it answers OK with the cursor in `VALUE` and every other field
zero, and writes no state. -/
def Obligations.GetCursorReturnsCursor : Prop :=
  (∀ req : ReqWord, req.extractLsb' 0 32 = 6#32 →
    decodeReq req = .getCursor (req.extractLsb' 32 32) (req.extractLsb' 64 64)) ∧
  ∀ (s : State) (o : Word) (lv : LaneWord),
    ∃ r, exec (.getCursor o lv) s = .next (s.answered r) ∧
      RspIs r 0 0 0 s.engine.cursor (fun _ => 0x00#8)

/-- A request word with `OP = 111` or a bit of `RSV` set answers `IllegalRequest`, every other field zero, and changes
no state (R703, R309): through the decoder, and for the reserved row itself with a control word of R309. -/
def Obligations.IllegalRequestReportsIt : Prop :=
  (∀ (s : State) (req : ReqWord), req.extractLsb' 0 3 = 7#3 ∨ req.extractLsb' 3 29 ≠ 0#29 →
    ∃ r, exec (decodeReq req) s = .next (s.answered r) ∧ RspIsError r 3) ∧
  ∀ (s : State) (ctl o : Word) (lv : LaneWord), ctl.extractLsb' 0 3 = 7#3 ∨ ctl.extractLsb' 3 29 ≠ 0#29 →
    ∃ r, exec (.illegal ctl o lv) s = .next (s.answered r) ∧ RspIsError r 3

/-- A varint cut off by the window's end decodes against the zero fill (R506): OK, one byte longer than what is left, and
`READ_ADV` leaves the cursor at `SRC_LEN + 1`, from where the next cursor request is out of range. That the block does so,
and does not reject it, is R506 and D11 (log 11). -/
def Obligations.TruncatedVarintDecodesAgainstZeroFill : Prop :=
  ∀ (s : State) (off : Word) (lv : LaneWord) (a : Nat), s.racing = none →
    s.engine.window.len ≤ 2 ^ 31 - 1 → OffsetIn off s.engine.window.len →
    off.toInt.toNat + a = s.engine.window.len → a < 5 →
    (∀ j : Nat, j < a → 128 ≤ (laneFrom s.engine.window off j).toNat) →
    (∃ r, exec (.readAt off lv) s = .next (s.answered r) ∧
      RspIs r 0 a (a + 1) (varintValue (laneFrom s.engine.window off) (a - 1)) (laneFrom s.engine.window off)) ∧
    (off = s.engine.cursor → ∃ r t, exec (.readAdv off lv) s = .next t ∧
      t = (s.answered r).atCursor (BitVec.ofNat 32 (s.engine.window.len + 1)) ∧
      RspIs r 0 a (a + 1) (varintValue (laneFrom s.engine.window off) (a - 1)) (laneFrom s.engine.window off) ∧
      ∃ r', exec (.peek off lv) t = .next (t.answered r') ∧ RspIsError r' 1 ∧
        exec (.readAdv off lv) t = .next (t.answered r'))

/-- A request that loads answers `MalformedVarint` only if at least five bytes are available and the first five all
have bit 7 set (R507). -/
def Obligations.MalformedReadNeedsFiveBytes : Prop :=
  ∀ (s t : State) (i : Instr) (off : Word) (r : RspWord) (rs : List RspWord), s.racing = none →
    loadsFrom i s = some off → exec i s = .next t → t.engine.responses = r :: rs →
    (r.extractLsb' 0 2).toNat = 2 →
    off.toInt.toNat + 5 ≤ s.engine.window.len ∧
      ∀ j : Nat, j < 5 → ∃ b, s.engine.window.read? (off.toInt.toNat + j) = some b ∧ b.getLsbD 7 = true

/-- The last byte of the window decodes by itself when its bit 7 is clear (R509). -/
def Obligations.LastByteOfWindowDecodes : Prop :=
  ∀ (s : State) (off : Word) (lv : LaneWord) (b : Byte), s.racing = none → 0 ≤ off.toInt →
    off.toInt.toNat + 1 = s.engine.window.len → s.engine.window.read? off.toInt.toNat = some b → b.toNat < 0x80 →
    ∃ r, RspIs r 0 0 1 (b.zeroExtend 32) (fun i => if i = 0 then b else 0x00#8) ∧
      exec (.readAt off lv) s = .next (s.answered r) ∧
      (s.engine.cursor = off → exec (.peek off lv) s = .next (s.answered r) ∧
        exec (.readAdv off lv) s = .next ((s.answered r).atCursor (off + 1#32)))

/-- Cursor arithmetic (R505): a `READ_ADV` that succeeds starts from a cursor in range, advances by 1 to 5 and leaves the
cursor at its old value plus the bytes consumed, modulo 2^32; it turns negative only from within that many bytes of 2^31 - 1, and then the next `PEEK` or `READ_ADV` is
out of range. -/
def Obligations.CursorAdvanceWraps : Prop :=
  ∀ (s t : State) (o : Word) (lv : LaneWord) (r : RspWord) (rs : List RspWord), s.racing = none →
    exec (.readAdv o lv) s = .next t → t.engine.responses = r :: rs → (r.extractLsb' 0 2).toNat = 0 →
    OffsetIn s.engine.cursor s.engine.window.len ∧ 1 ≤ (r.extractLsb' 5 3).toNat ∧ (r.extractLsb' 5 3).toNat ≤ 5 ∧
    t.engine.cursor.toNat = (s.engine.cursor.toNat + (r.extractLsb' 5 3).toNat) % 2 ^ 32 ∧
    (t.engine.cursor.toInt < 0 →
      2 ^ 31 - 1 - ((r.extractLsb' 5 3).toNat : Int) < s.engine.cursor.toInt ∧
      ∃ r', exec (.peek o lv) t = .next (t.answered r') ∧ exec (.readAdv o lv) t = .next (t.answered r') ∧
        RspIsError r' 1)

/-- Successive decode (R510): two varints one after the other, read by two `READ_ADV`s from the first one's start, give
both values in order, the cursor landing on the second's start and then behind it; when the second ends the window, a
third `READ_ADV` is out of range. -/
def Obligations.SuccessiveReadsDecodeInOrder : Prop :=
  ∀ (s : State) (o : Word) (lv : LaneWord) (k1 k2 : Nat), s.racing = none → s.engine.window.wf → k1 ≤ 4 → k2 ≤ 4 →
    0 ≤ s.engine.cursor.toInt →
    s.engine.cursor.toInt.toNat + (k1 + 1) + (k2 + 1) ≤ s.engine.window.len →
    TerminatesAt (fun i => s.engine.window.bytes.read (s.engine.cursor.toInt.toNat + i)) k1 →
    TerminatesAt (fun i => s.engine.window.bytes.read (s.engine.cursor.toInt.toNat + (k1 + 1) + i)) k2 →
    ∃ r1 r2 t u, exec (.readAdv o lv) s = .next t ∧ exec (.readAdv o lv) t = .next u ∧
      t = (s.answered r1).atCursor (s.engine.cursor + BitVec.ofNat 32 (k1 + 1)) ∧
      u = (t.answered r2).atCursor (s.engine.cursor + BitVec.ofNat 32 (k1 + 1 + (k2 + 1))) ∧
      RspIs r1 0 k1 (k1 + 1)
        (varintValue (fun i => s.engine.window.bytes.read (s.engine.cursor.toInt.toNat + i)) k1)
        (windowLane s.engine.window s.engine.cursor.toInt.toNat) ∧
      RspIs r2 0 k2 (k2 + 1)
        (varintValue (fun i => s.engine.window.bytes.read (s.engine.cursor.toInt.toNat + (k1 + 1) + i)) k2)
        (windowLane s.engine.window (s.engine.cursor.toInt.toNat + (k1 + 1))) ∧
      (s.engine.cursor.toInt.toNat + (k1 + 1) + (k2 + 1) = s.engine.window.len →
        u.engine.cursor.toInt = (s.engine.window.len : Int) ∧
        ∃ r3, exec (.readAdv o lv) u = .next (u.answered r3) ∧ RspIsError r3 1)

/-- Round trip through the window (property A8): where the window holds the minimal varint of a 32-bit pattern,
`READ_AT` answers that pattern and the varint's length, and the cursor and all else stay. -/
def Obligations.ReadAtRoundTrip : Prop :=
  ∀ (s : State) (off : Word) (lv : LaneWord) (v : Word), s.racing = none →
    HoldsAt s.engine.window off (minimalVarint v) →
    ∃ r, exec (.readAt off lv) s = .next (s.answered r) ∧
      RspIs r 0 ((minimalVarint v).length - 1) (minimalVarint v).length v (laneFrom s.engine.window off)

end Requests

section AllRequests

open Sys2Proof Sys2Proof.Machine

/-- `PEEK` is `READ_AT` at the cursor (R503), and `READ_ADV` is `READ_AT` at the cursor, followed, only when it succeeds, by
the advance of the cursor by `CONSUMED` (R504, R706). Both hold for every state, also when the host changes the window
meanwhile, with the free values that load drew (R214; log 7, log 8). -/
def Obligations.CursorReadsAreReadAtCursor : Prop :=
  (∀ (s : State) (o : Word) (l l' : LaneWord), exec (.peek o l) s = exec (.readAt s.engine.cursor l') s) ∧
  ∀ (s t : State) (o : Word) (l l' : LaneWord) (r : RspWord) (rs : List RspWord),
    exec (.readAt s.engine.cursor l') s = .next t → t.engine.responses = r :: rs →
    exec (.readAdv o l) s =
      .next (if (r.extractLsb' 0 2).toNat = 0 then
        t.atCursor (s.engine.cursor + (r.extractLsb' 5 3).zeroExtend 32) else t)

/-- `READ_AT` answers what `DECODE` answers on the lane vector `LOAD` gives (R501, R502, R420; program P3). It holds too
when the host changes the window meanwhile, with the lanes that load drew. -/
def Obligations.ReadAtIsDecodeOfLoad : Prop :=
  ∀ (s t : State) (off o : Word) (l l' : LaneWord) (r : RspWord),
    exec (.load off l) s = .next t → t.engine.responses = r :: s.engine.responses →
    (r.extractLsb' 0 2).toNat = 0 →
    ∃ r', exec (.decode o (r.extractLsb' 64 64)) s = .next (s.answered r') ∧
      exec (.readAt off l') s =
        .next { t with engine := { t.engine with responses := r' :: s.engine.responses } }

/-- Every request completes with exactly one response, whatever the state (R807, R15). -/
def Obligations.EveryRequestAnswersOnce : Prop :=
  ∀ (i : Instr) (s : State), ∃ t r, exec i s = .next t ∧ t.engine.responses = r :: s.engine.responses

/-- The frame of every request (R205, R203, R706, R714): the window (every byte of it, and its length), the reset
condition, the other instances, the host's remaining actions and the host's pending change stay; so does every register,
that is the cursor, but for SET_CURSOR and READ_ADV. The counter of free values (log 8) moves only when the host
changes the window meanwhile. -/
def Obligations.RequestFrame : Prop :=
  ∀ (i : Instr) (s t : State), exec i s = .next t →
    (∀ a : Nat, t.engine.window.read? a = s.engine.window.read? a) ∧
    t.engine.window = s.engine.window ∧ t.engine.inReset = s.engine.inReset ∧ t.others = s.others ∧
    t.host = s.host ∧ t.racing = s.racing ∧ (s.racing = none → t.draws = s.draws) ∧
    ((∀ o l, i ≠ .setCursor o l) → (∀ o l, i ≠ .readAdv o l) → t.engine.cursor = s.engine.cursor)

/-- Only `READ_ADV` and `SET_CURSOR` change the cursor (R511); `READ_ADV` only when its status is OK, and then it does
(R101). -/
def Obligations.OnlyTwoRequestsMoveCursor : Prop :=
  ∀ (i : Instr) (s t : State) (r : RspWord) (rs : List RspWord), exec i s = .next t →
    t.engine.responses = r :: rs →
    (t.engine.cursor ≠ s.engine.cursor →
      (∃ l, i = .setCursor t.engine.cursor l) ∨ (∃ o l, i = .readAdv o l) ∧ (r.extractLsb' 0 2).toNat = 0) ∧
    ((∃ o l, i = .readAdv o l) → (r.extractLsb' 0 2).toNat = 0 → t.engine.cursor ≠ s.engine.cursor)

/-- Which status a request reports (R705, R701 to R704): illegal, else out of range at its start, else malformed, else OK.
When the host changes the window meanwhile, the lanes decoded are free (R214): the last clause then says only which
requests can report malformed. -/
def Obligations.StatusIsFirstCauseThatApplies : Prop :=
  ∀ (i : Instr) (s t : State) (r : RspWord) (rs : List RspWord), exec i s = .next t → t.engine.responses = r :: rs →
    ((r.extractLsb' 0 2).toNat = 3 ↔ ∃ c o l, i = .illegal c o l) ∧
    ((r.extractLsb' 0 2).toNat = 1 ↔ ∃ off, loadsFrom i s = some off ∧ ¬ OffsetIn off s.engine.window.len) ∧
    (s.racing = none → ((r.extractLsb' 0 2).toNat = 2 ↔
      (∀ off, loadsFrom i s = some off → OffsetIn off s.engine.window.len) ∧
      ∃ lane, decodesLanes i s = some lane ∧ ∀ j : Nat, j < 5 → 128 ≤ (lane j).toNat)) ∧
    ((r.extractLsb' 0 2).toNat = 2 →
      (∀ off, loadsFrom i s = some off → OffsetIn off s.engine.window.len) ∧ (decodesLanes i s).isSome)

/-- Response fields that carry nothing are zero (R306): the reserved bits always; all but `STATUS` on an error; and on
OK the fields the operation does not set. -/
def Obligations.ResponseFieldsThatCarryNothingAreZero : Prop :=
  ∀ (i : Instr) (s t : State) (r : RspWord) (rs : List RspWord), exec i s = .next t →
    t.engine.responses = r :: rs →
    r.extractLsb' 8 24 = 0#24 ∧
    ((r.extractLsb' 0 2).toNat ≠ 0 → RspIsError r (r.extractLsb' 0 2).toNat) ∧
    ((r.extractLsb' 0 2).toNat = 0 →
      ((∃ o l, i = .load o l) → r.extractLsb' 2 3 = 0#3 ∧ r.extractLsb' 5 3 = 0#3 ∧ r.extractLsb' 32 32 = 0#32) ∧
      ((∃ o l, i = .setCursor o l) → r = 0#128) ∧
      ((∃ o l, i = .getCursor o l) →
        r.extractLsb' 2 3 = 0#3 ∧ r.extractLsb' 5 3 = 0#3 ∧ r.extractLsb' 64 64 = 0#64))

/-- A request that completes with an error writes no architectural state (R706): the cursor and the window stay, and
when the host leaves the window alone the response is the only change. -/
def Obligations.ErrorWritesNoState : Prop :=
  ∀ (i : Instr) (s t : State) (r : RspWord) (rs : List RspWord), exec i s = .next t →
    t.engine.responses = r :: rs → (r.extractLsb' 0 2).toNat ≠ 0 →
    t.engine.cursor = s.engine.cursor ∧ t.engine.window = s.engine.window ∧
    (s.racing = none → t = s.answered r)

/-- Errors are deterministic (R707): the same request, reissued against the same cursor and window, reports the same
status, and by R306 the same response. -/
def Obligations.ErrorRepeats : Prop :=
  ∀ (i : Instr) (s t u : State) (r : RspWord) (rs : List RspWord), s.racing = none → u.racing = none →
    exec i s = .next t → t.engine.responses = r :: rs → (r.extractLsb' 0 2).toNat ≠ 0 →
    u.engine.cursor = s.engine.cursor → u.engine.window = s.engine.window →
    exec i u = .next (u.answered r)

/-- A request that loads depends on no byte of the window beyond the eight from its offset on, and a request that does
not load on no byte at all (R206, R210, R414). -/
def Obligations.OnlyLoadedBytesMatter : Prop :=
  ∀ (i : Instr) (s t : State) (m : Memory), s.racing = none →
    (∀ off, loadsFrom i s = some off → ∀ j : Nat, j < 8 →
      m.read (off.toInt.toNat + j) = s.engine.window.bytes.read (off.toInt.toNat + j)) →
    exec i s = .next t →
    exec i (s.onWindow { len := s.engine.window.len, bytes := m }) =
      .next (t.onWindow { len := s.engine.window.len, bytes := m })

/-- A `LOAD`, in range at its start, during which the host changes the window (R214): it answers OK, and fills from the
window as many lanes as the length before gives, or as the length after gives; each such lane is a free value, neither the
old byte nor the new one, and the lanes beyond are zero. Where the length after leaves the offset no `avail`, how many
lanes is a free value too (log 23); how free values are numbered is the model's (log 7, log 8). Out of range at its start
it answers as ever, by `LoadsOutOfRangeReportIt`. -/
def Obligations.RacingLoadDrawsItsLanes : Prop :=
  ∀ (s : State) (off : Word) (lv : LaneWord) (w : Window), s.racing = some w → OffsetIn off s.engine.window.len →
    ∃ n r, exec (.load off lv) s = .next { s.answered r with draws := s.draws + 9 } ∧ n ≤ 8 ∧
      (n = min 8 (s.engine.window.len - off.toInt.toNat) ∨
        (OffsetIn off w.len → n = min 8 (w.len - off.toInt.toNat))) ∧
      RspIs r 0 0 0 0#32 (fun i => if i < n then Config.freeByte (s.draws + 1 + i) else 0x00#8)

end AllRequests

section Steps

open Sys2Proof Sys2Proof.Machine

/-- After reset (R800): in every instance the cursor is 0 and reset is released; no request is in progress. That no
response stands (log 2), the windows are empty (log 5) and the host has no action left (log 1) are the model's
choices. -/
def Obligations.ResetLeavesCursorZero : Prop :=
  State.reset.engine.cursor = 0x00000000#32 ∧ State.reset.engine.inReset = false ∧ State.reset.racing = none ∧
  State.reset.host = [] ∧ State.reset.engine.responses = [] ∧ State.reset.engine.window.len = 0 ∧
  (∀ e ∈ State.reset.others, e = State.reset.engine) ∧ State.reset.others.length + 1 = Config.numEngines

/-- The invariant holds at reset: no request in progress and every window in canonical form (R800, R200). -/
def Obligations.InvariantHoldsAtReset : Prop := State.reset.Inv ∧ State.reset.WindowsFit

/-- Every step keeps the invariant (R200, R800): no request in progress, and every instance's window one the spec
allows, in canonical form. -/
def Obligations.StepKeepsInvariant : Prop :=
  ∀ s t : State, s.Inv → step s = .next t → t.Inv

/-- Every step keeps every window within `MAX_SRC_LEN` (R8, R200), and the host has one action less. -/
def Obligations.StepKeepsWindowsWithinMaxSrcLen : Prop :=
  ∀ s t : State, s.WindowsFit → step s = .next t → t.WindowsFit ∧ t.host = s.host.tail

/-- A step runs the decoded request (R15, R308): when the host presents a request and leaves the window alone, and the
instance is not in reset, the step is `exec` of the decoded request at the state whose host has one action less. -/
def Obligations.StepRunsDecodedRequest : Prop :=
  ∀ (s : State) (req : ReqWord) (rest : List HostAction), s.host = .present req :: rest → s.racing = none →
    s.engine.inReset = false → step s = exec (decodeReq req) { s with host := rest }

/-- A step with a request during which the host changes the window (R214, log 7) runs `exec` of the decoded request with
that change pending, and then the new window is in place: its length is the new one and its bytes are the cells'. -/
def Obligations.RacingStepRunsRequestThenChangesWindow : Prop :=
  ∀ (s : State) (req : ReqWord) (len : Nat) (cells : List Host.Cell) (rest : List HostAction),
    s.host = .presentRacing req len cells :: rest → s.engine.inReset = false → len ≤ 2 ^ 31 - 1 →
    ∃ w t r, exec (decodeReq req) { s with host := rest, racing := some w } = .next t ∧
      t.engine.responses = r :: s.engine.responses ∧
      step s = .next { t.onWindow w with racing := none } ∧ w.len = len ∧
      ∀ a : Nat, a < len → w.read? a =
        some (((cells.reverse.find? (fun c => c.1 == a)).map (fun c => c.2)).getD 0x00#8)

/-- The word `withFetchWord` places is the request the next step runs (log 1). -/
def Obligations.FetchWordRunsNext : Prop :=
  ∀ (s : State) (w : Nat), s.racing = none → w < 2 ^ 128 →
    step (s.withFetchWord 128 w) =
      exec (decodeReq (BitVec.ofNat 128 w)) { s with engine := { s.engine with inReset := false } }

/-- The host changes the window between requests (R213): every later read of a byte inside gives the last cell put there,
or 0x00 where there is none (log 6), and nothing else changes. -/
def Obligations.SetWindowPutsItsBytes : Prop :=
  ∀ (s : State) (len : Nat) (cells : List Host.Cell) (rest : List HostAction),
    s.host = .setWindow len cells :: rest → len ≤ 2 ^ 31 - 1 →
    ∃ w, step s = .next ({ s with host := rest }.onWindow w) ∧ w.len = len ∧
      (∀ a : Nat, a < len → w.read? a =
        some (((cells.reverse.find? (fun c => c.1 == a)).map (fun c => c.2)).getD 0x00#8)) ∧
      ∀ a : Nat, len ≤ a → w.read? a = none

/-- Reset (R800, R801): it sets the cursor of the instance in front to 0 and leaves its window (R111) and the other
instances (R714); a request presented then has no step (X15: stuck, a fault by name, log 10); released, the instance has a
step for every request. -/
def Obligations.ResetHoldsOffRequests : Prop :=
  (∀ (s : State) (rest : List HostAction), s.host = .assertReset :: rest →
    ∃ t, step s = .next t ∧ t.engine.cursor = 0x00000000#32 ∧ t.engine.inReset = true ∧
      t.engine.window = s.engine.window ∧ t.engine.responses = s.engine.responses ∧ t.others = s.others ∧
      t.host = rest) ∧
  (∀ (s : State) (req : ReqWord) (rest : List HostAction), s.host = .present req :: rest →
    s.engine.inReset = true → step s = .fault .requestDuringReset) ∧
  (∀ (s : State) (req : ReqWord) (len : Nat) (cells : List Host.Cell) (rest : List HostAction),
    s.host = .presentRacing req len cells :: rest → len ≤ 2 ^ 31 - 1 → s.engine.inReset = true →
    step s = .fault .requestDuringReset) ∧
  (∀ (s : State) (req : ReqWord) (rest : List HostAction), s.host = .releaseReset :: .present req :: rest →
    ∃ t u r, step s = .next t ∧ t = { s with engine := { s.engine with inReset := false }, host := .present req :: rest } ∧
      step t = .next u ∧ u.engine.responses = r :: s.engine.responses)

/-- Instances share no writable state (R714, R215): a step with any action but turning to another instance leaves every
other instance as it is, and does not depend on them; the number of instances never changes. -/
def Obligations.InstancesAreIsolated : Prop :=
  ∀ s t : State, step s = .next t →
    t.others.length = s.others.length ∧
    ((∀ k rest, s.host ≠ .selectEngine k :: rest) →
      t.others = s.others ∧
      ∀ es : List Engine, step { s with others := es } = .next { t with others := es })

/-- Turning to another instance (log 3) and back gives every instance as it was: the host's turning changes no
instance. -/
def Obligations.SelectEngineKeepsEveryInstance : Prop :=
  ∀ (s : State) (k : Nat) (rest : List HostAction), s.host = .selectEngine k :: .selectEngine k :: rest →
    k < s.others.length → ∃ t, step s = .next t ∧ s.others[k]? = some t.engine ∧
      t.others[k]? = some s.engine ∧ (∀ j : Nat, j ≠ k → t.others[j]? = s.others[j]?) ∧
      step t = .next { s with host := rest }

/-- The one fault a step can answer is a request presented in reset (R801): no step reads a byte outside the window
(R206). -/
def Obligations.StepFaultsOnlyInReset : Prop :=
  ∀ (s : State) (f : Fault), step s = .fault f → f = .requestDuringReset ∧ s.engine.inReset = true ∧
    ∃ a rest, s.host = a :: rest ∧ ((∃ req, a = .present req) ∨ ∃ req len cells, a = .presentRacing req len cells)

/-- Liveness under the host's duties (R807, R805, R802): from every state whose host keeps its duties, every run goes on
for ever, and its host keeps them. -/
def Obligations.DutifulHostNeverStopsMachine : Prop :=
  ∀ (k : Nat) (s : State), s.dutiful = true → ∃ t : State, Sys2Proof.core.run k s = .next t ∧ t.dutiful = true

/-- The bytes of a window: a read after a write gives the byte written there and leaves every other address alone, and the
canonical form is kept; memories in that form that read alike are equal (log 6). -/
def Obligations.MemoryWriteThenRead : Prop :=
  (∀ (m : Memory) (a b : Nat) (v : Byte), m.wf →
    (m.write a v).wf ∧ (m.write a v).read b = if b = a then v else m.read b) ∧
  ∀ m m' : Memory, m.wf → m'.wf → (∀ a : Nat, m.read a = m'.read a) → m = m'

end Steps
end

