-- ==== Sys2Proof/Laws/State.lean ====
section
/-!
SUPPORT. One lemma per field per update of the state, so that no proof unfolds a record update.
-/

namespace Sys2Proof.Machine

section Respond
variable (s : State) (r : RspWord)
@[simp] theorem State.respond_cursor : (s.respond r).engine.cursor = s.engine.cursor := rfl
@[simp] theorem State.respond_window : (s.respond r).engine.window = s.engine.window := rfl
@[simp] theorem State.respond_inReset : (s.respond r).engine.inReset = s.engine.inReset := rfl
@[simp] theorem State.respond_responses : (s.respond r).engine.responses = r :: s.engine.responses := rfl
@[simp] theorem State.respond_others : (s.respond r).others = s.others := rfl
@[simp] theorem State.respond_host : (s.respond r).host = s.host := rfl
@[simp] theorem State.respond_racing : (s.respond r).racing = s.racing := rfl
@[simp] theorem State.respond_draws : (s.respond r).draws = s.draws := rfl
theorem State.respond_eq_answered : s.respond r = s.answered r := rfl
theorem State.raise_eq_answered (st : Status) : s.raise st = s.answered (errorRsp st) := rfl
end Respond

section Answered
variable (s : State) (r : RspWord)
@[simp] theorem State.answered_cursor : (s.answered r).engine.cursor = s.engine.cursor := rfl
@[simp] theorem State.answered_window : (s.answered r).engine.window = s.engine.window := rfl
@[simp] theorem State.answered_inReset : (s.answered r).engine.inReset = s.engine.inReset := rfl
@[simp] theorem State.answered_responses : (s.answered r).engine.responses = r :: s.engine.responses := rfl
@[simp] theorem State.answered_others : (s.answered r).others = s.others := rfl
@[simp] theorem State.answered_host : (s.answered r).host = s.host := rfl
@[simp] theorem State.answered_racing : (s.answered r).racing = s.racing := rfl
@[simp] theorem State.answered_draws : (s.answered r).draws = s.draws := rfl
end Answered

section Cursor
variable (s : State) (c : Word)
@[simp] theorem State.setCursor_cursor : (s.setCursor c).engine.cursor = c := rfl
@[simp] theorem State.setCursor_window : (s.setCursor c).engine.window = s.engine.window := rfl
@[simp] theorem State.setCursor_inReset : (s.setCursor c).engine.inReset = s.engine.inReset := rfl
@[simp] theorem State.setCursor_responses : (s.setCursor c).engine.responses = s.engine.responses := rfl
@[simp] theorem State.setCursor_others : (s.setCursor c).others = s.others := rfl
@[simp] theorem State.setCursor_host : (s.setCursor c).host = s.host := rfl
@[simp] theorem State.setCursor_racing : (s.setCursor c).racing = s.racing := rfl
@[simp] theorem State.setCursor_draws : (s.setCursor c).draws = s.draws := rfl
@[simp] theorem State.atCursor_cursor : (s.atCursor c).engine.cursor = c := rfl
@[simp] theorem State.atCursor_window : (s.atCursor c).engine.window = s.engine.window := rfl
@[simp] theorem State.atCursor_inReset : (s.atCursor c).engine.inReset = s.engine.inReset := rfl
@[simp] theorem State.atCursor_responses : (s.atCursor c).engine.responses = s.engine.responses := rfl
@[simp] theorem State.atCursor_others : (s.atCursor c).others = s.others := rfl
@[simp] theorem State.atCursor_host : (s.atCursor c).host = s.host := rfl
@[simp] theorem State.atCursor_racing : (s.atCursor c).racing = s.racing := rfl
@[simp] theorem State.atCursor_draws : (s.atCursor c).draws = s.draws := rfl
theorem State.setCursor_respond (r : RspWord) : (s.setCursor c).respond r = (s.answered r).atCursor c := rfl
end Cursor

section OnWindow
variable (s : State) (w : Window)
@[simp] theorem State.setWindow_cursor : (s.setWindow w).engine.cursor = s.engine.cursor := rfl
@[simp] theorem State.setWindow_window : (s.setWindow w).engine.window = w := rfl
@[simp] theorem State.setWindow_inReset : (s.setWindow w).engine.inReset = s.engine.inReset := rfl
@[simp] theorem State.setWindow_responses : (s.setWindow w).engine.responses = s.engine.responses := rfl
@[simp] theorem State.setWindow_others : (s.setWindow w).others = s.others := rfl
@[simp] theorem State.setWindow_host : (s.setWindow w).host = s.host := rfl
@[simp] theorem State.setWindow_racing : (s.setWindow w).racing = s.racing := rfl
@[simp] theorem State.setWindow_draws : (s.setWindow w).draws = s.draws := rfl
@[simp] theorem State.onWindow_cursor : (s.onWindow w).engine.cursor = s.engine.cursor := rfl
@[simp] theorem State.onWindow_window : (s.onWindow w).engine.window = w := rfl
@[simp] theorem State.onWindow_inReset : (s.onWindow w).engine.inReset = s.engine.inReset := rfl
@[simp] theorem State.onWindow_responses : (s.onWindow w).engine.responses = s.engine.responses := rfl
@[simp] theorem State.onWindow_others : (s.onWindow w).others = s.others := rfl
@[simp] theorem State.onWindow_host : (s.onWindow w).host = s.host := rfl
@[simp] theorem State.onWindow_racing : (s.onWindow w).racing = s.racing := rfl
@[simp] theorem State.onWindow_draws : (s.onWindow w).draws = s.draws := rfl
end OnWindow

section Racing
variable (s : State) (r : Option Window)
@[simp] theorem State.setRacing_engine : (s.setRacing r).engine = s.engine := rfl
@[simp] theorem State.setRacing_others : (s.setRacing r).others = s.others := rfl
@[simp] theorem State.setRacing_host : (s.setRacing r).host = s.host := rfl
@[simp] theorem State.setRacing_racing : (s.setRacing r).racing = r := rfl
@[simp] theorem State.setRacing_draws : (s.setRacing r).draws = s.draws := rfl
end Racing

section CountDraws
variable (s : State)
@[simp] theorem State.countDraws_engine : s.countDraws.engine = s.engine := by
  unfold State.countDraws; split <;> rfl
@[simp] theorem State.countDraws_others : s.countDraws.others = s.others := by
  unfold State.countDraws; split <;> rfl
@[simp] theorem State.countDraws_host : s.countDraws.host = s.host := by
  unfold State.countDraws; split <;> rfl
@[simp] theorem State.countDraws_racing : s.countDraws.racing = s.racing := by
  unfold State.countDraws; split <;> rfl
/-- No free value is drawn when the host leaves the window alone. -/
theorem State.countDraws_of_still (h : s.racing = none) : s.countDraws = s := by
  simp [State.countDraws, h]
end CountDraws

end Sys2Proof.Machine
end

