-- ==== Sys2Proof/Laws/Memory.lean ====
section
/-!
SUPPORT. The bytes of a window: reading after writing, and that every operation keeps the canonical form.
-/

namespace Sys2Proof.Machine

/-- An address below every listed one is not listed. -/
theorem Memory.read_below {m : Memory} {a : Nat} (h : ∀ c ∈ m, a < c.1) : Memory.read m a = Memory.unlisted := by
  induction m with
  | nil => rfl
  | cons c rest ih =>
    have hc : a ≠ c.1 := Nat.ne_of_lt (h c (by simp))
    simp only [Memory.read, if_neg hc]
    exact ih fun d hd => h d (by simp [hd])

/-- A read after a write: the byte written at its address, every other address as before. -/
theorem Memory.read_write (m : Memory) (a b : Nat) (v : Byte) (h : m.wf) :
    Memory.read (m.write a v) b = if b = a then v else Memory.read m b := by
  obtain ⟨hs, -⟩ := h
  induction m with
  | nil =>
    simp only [Memory.write]
    split <;> simp_all [Memory.read]
  | cons c rest ih =>
    obtain ⟨k, w⟩ := c
    rw [List.pairwise_cons] at hs
    have below : a ≤ k → Memory.read rest a = Memory.unlisted := fun hk =>
      Memory.read_below fun c hc => Nat.lt_of_le_of_lt hk (hs.1 c hc)
    have ih := ih hs.2
    simp only [Memory.write]
    split
    · have hk : a ≠ k := by omega
      have := below (by omega)
      split
      · by_cases hb : b = a <;> simp_all [Memory.read]
      · by_cases hb : b = a <;> simp_all [Memory.read]
    · split
      · subst k
        have := below (Nat.le_refl a)
        split
        · by_cases hb : b = a <;> simp_all [Memory.read]
        · by_cases hb : b = a <;> simp_all [Memory.read]
      · have hk : k ≠ a := by omega
        by_cases hb : b = k
        · subst b; simp [Memory.read, hk]
        · simp [Memory.read, hb, ih]

/-- Every address a write lists is the one written or was listed before. -/
theorem Memory.mem_write {m : Memory} {a : Nat} {v : Byte} {c : Host.Cell} (h : c ∈ m.write a v) :
    c = (a, v) ∨ c ∈ m := by
  induction m with
  | nil =>
    simp only [Memory.write] at h
    split at h <;> simp_all
  | cons d rest ih =>
    simp only [Memory.write] at h
    split at h
    · split at h <;> simp_all
    · split at h
      · split at h <;> simp_all
        tauto
      · rw [List.mem_cons] at h
        rcases h with h | h
        · simp [h]
        · rcases ih h with h | h <;> simp [h]

/-- A write keeps the canonical form. -/
theorem Memory.write_wf {m : Memory} (a : Nat) (v : Byte) (h : m.wf) : (m.write a v).wf := by
  obtain ⟨hs, hv⟩ := h
  constructor
  · clear hv
    induction m with
    | nil => simp only [Memory.write]; split <;> simp
    | cons d rest ih =>
      rw [List.pairwise_cons] at hs
      simp only [Memory.write]
      split
      · split
        · exact List.pairwise_cons.2 hs
        · refine List.pairwise_cons.2 ⟨fun c hc => ?_, List.pairwise_cons.2 hs⟩
          rcases List.mem_cons.1 hc with rfl | hc
          · assumption
          · exact Nat.lt_trans ‹_› (hs.1 c hc)
      · split
        · split
          · exact hs.2
          · subst a; exact List.pairwise_cons.2 ⟨fun c hc => hs.1 c hc, hs.2⟩
        · refine List.pairwise_cons.2 ⟨fun c hc => ?_, ih hs.2⟩
          rcases Memory.mem_write hc with rfl | hc
          · show d.1 < a; omega
          · exact hs.1 c hc
  · clear hs
    induction m with
    | nil => simp only [Memory.write]; split <;> simp_all
    | cons d rest ih =>
      have hd := hv d (by simp)
      have hr := ih fun c hc => hv c (by simp [hc])
      simp only [Memory.write]
      intro c hc
      split at hc
      · split at hc
        · exact hv c hc
        · rcases List.mem_cons.1 hc with rfl | hc
          · assumption
          · exact hv c hc
      · split at hc
        · split at hc
          · exact hv c (by simp [hc])
          · rcases List.mem_cons.1 hc with rfl | hc
            · assumption
            · exact hv c (by simp [hc])
        · rcases List.mem_cons.1 hc with rfl | hc
          · exact hd
          · exact hr c hc

/-- Putting a cell in a window keeps the length. -/
@[simp] theorem Window.putCell_len (w : Window) (c : Host.Cell) : (w.putCell c).len = w.len := by
  unfold Window.putCell; split <;> rfl

/-- Putting a cell in a window keeps it one the spec allows. -/
theorem Window.putCell_wf {w : Window} (c : Host.Cell) (h : w.wf) : (w.putCell c).wf := by
  obtain ⟨hl, hb, hi⟩ := h
  refine ⟨by simpa using hl, ?_, ?_⟩
  · unfold Window.putCell; split
    · exact Memory.write_wf _ _ hb
    · exact hb
  · intro d hd
    rw [Window.putCell_len]
    unfold Window.putCell at hd
    split at hd
    · rcases Memory.mem_write hd with rfl | hd
      · assumption
      · exact hi d hd
    · exact hi d hd

/-- The window a host puts in place is one the spec allows, of the length it gave. -/
theorem Window.ofCells_wf {len : Nat} {cells : List Host.Cell} {w : Window}
    (h : Window.ofCells len cells = some w) : w.wf ∧ w.len = len := by
  unfold Window.ofCells at h
  split at h
  · cases h
    have key : ∀ (cs : List Host.Cell) (v : Window), v.wf → v.len = len →
        (cs.foldl Window.putCell v).wf ∧ (cs.foldl Window.putCell v).len = len := by
      intro cs
      induction cs with
      | nil => exact fun v hv hl => ⟨hv, hl⟩
      | cons c cs ih => exact fun v hv hl => ih _ (Window.putCell_wf c hv) (by simpa using hl)
    exact key cells _ ⟨‹_›, by simp [Memory.wf], by simp⟩ rfl
  · cases h

/-- A window of a length the spec allows can be put in place. -/
theorem Window.ofCells_isSome {len : Nat} (cells : List Host.Cell) (h : len ≤ Config.windowLimit) :
    ∃ w, Window.ofCells len cells = some w := by
  unfold Window.ofCells; rw [if_pos h]; exact ⟨_, rfl⟩

end Sys2Proof.Machine
end

