-- ==== Sys2Proof/Laws/Engine.lean ====
section
/-!
SUPPORT. What `Decode` can answer, its lanes and its tables (40_decode_engine.md R400 to R408), and the fields of a packed
response (30_encoding.md R304).
-/

namespace Sys2Proof.Machine

/-- Lane i's shifted payload, before the mask (R404 to R406). -/
def shiftedLane (L : Lanes) (i : Fin 5) : Word := shiftLanes (widenLanes (stripLanes L)) i

/-- The reduction, mask by mask (R407): the OR of the shifted lanes 0..last. -/
theorem reduceLanes_cases (S : Fin 5 → Word) :
    reduceLanes S 0 = S 0 ∧ reduceLanes S 1 = S 0 ||| S 1 ∧ reduceLanes S 2 = S 0 ||| S 1 ||| S 2 ∧
    reduceLanes S 3 = S 0 ||| S 1 ||| S 2 ||| S 3 ∧ reduceLanes S 4 = S 0 ||| S 1 ||| S 2 ||| S 3 ||| S 4 := by
  simp [reduceLanes, maskedLane, maskTable]

/-- Everything `Decode` can answer (R402, R407, R408): the first lane of 0..4 whose continuation bit is clear ends the
varint, and the value is the OR of the shifted lanes up to it; without one it is malformed. -/
theorem decodeLanes_cases (L : Lanes) :
    ((L 0).getLsbD 7 = false ∧ decodeLanes L = .ok (shiftedLane L 0) 0) ∨
    ((L 0).getLsbD 7 = true ∧ (L 1).getLsbD 7 = false ∧
      decodeLanes L = .ok (shiftedLane L 0 ||| shiftedLane L 1) 1) ∨
    ((L 0).getLsbD 7 = true ∧ (L 1).getLsbD 7 = true ∧ (L 2).getLsbD 7 = false ∧
      decodeLanes L = .ok (shiftedLane L 0 ||| shiftedLane L 1 ||| shiftedLane L 2) 2) ∨
    ((L 0).getLsbD 7 = true ∧ (L 1).getLsbD 7 = true ∧ (L 2).getLsbD 7 = true ∧ (L 3).getLsbD 7 = false ∧
      decodeLanes L = .ok (shiftedLane L 0 ||| shiftedLane L 1 ||| shiftedLane L 2 ||| shiftedLane L 3) 3) ∨
    ((L 0).getLsbD 7 = true ∧ (L 1).getLsbD 7 = true ∧ (L 2).getLsbD 7 = true ∧ (L 3).getLsbD 7 = true ∧
      (L 4).getLsbD 7 = false ∧
      decodeLanes L =
        .ok (shiftedLane L 0 ||| shiftedLane L 1 ||| shiftedLane L 2 ||| shiftedLane L 3 ||| shiftedLane L 4) 4) ∨
    ((L 0).getLsbD 7 = true ∧ (L 1).getLsbD 7 = true ∧ (L 2).getLsbD 7 = true ∧ (L 3).getLsbD 7 = true ∧
      (L 4).getLsbD 7 = true ∧ decodeLanes L = .malformed) := by
  obtain ⟨r0, r1, r2, r3, r4⟩ := reduceLanes_cases (shiftLanes (widenLanes (stripLanes L)))
  have last : ∀ (k : Fin 5), firstClear (continuationMask L) = k.val →
      decodeLanes L = .ok (reduceLanes (shiftLanes (widenLanes (stripLanes L))) k) k := by
    intro k hk
    have : (⟨firstClear (continuationMask L), hk ▸ k.isLt⟩ : Fin 5) = k := Fin.ext hk
    simp only [decodeLanes, dif_pos (hk ▸ k.isLt : firstClear (continuationMask L) < 5), this]
  cases h0 : (L 0).getLsbD 7
  · exact .inl ⟨rfl, (last 0 (by simp only [firstClear, continuationMask, h0, Bool.not_false, if_true]; rfl)).trans (congrArg (DecodeResult.ok · 0) r0)⟩
  cases h1 : (L 1).getLsbD 7
  · exact .inr (.inl ⟨rfl, rfl, (last 1 (by simp only [firstClear, continuationMask, h0, h1, Bool.not_false, Bool.not_true, Bool.false_eq_true, if_true, if_false]; rfl)).trans (congrArg (DecodeResult.ok · 1) r1)⟩)
  cases h2 : (L 2).getLsbD 7
  · exact .inr (.inr (.inl ⟨rfl, rfl, rfl, (last 2 (by simp only [firstClear, continuationMask, h0, h1, h2, Bool.not_false, Bool.not_true, Bool.false_eq_true, if_true, if_false]; rfl)).trans (congrArg (DecodeResult.ok · 2) r2)⟩))
  cases h3 : (L 3).getLsbD 7
  · exact .inr (.inr (.inr (.inl ⟨rfl, rfl, rfl, rfl,
      (last 3 (by simp only [firstClear, continuationMask, h0, h1, h2, h3, Bool.not_false, Bool.not_true, Bool.false_eq_true, if_true, if_false]; rfl)).trans (congrArg (DecodeResult.ok · 3) r3)⟩)))
  cases h4 : (L 4).getLsbD 7
  · exact .inr (.inr (.inr (.inr (.inl ⟨rfl, rfl, rfl, rfl, rfl,
      (last 4 (by simp only [firstClear, continuationMask, h0, h1, h2, h3, h4, Bool.not_false, Bool.not_true, Bool.false_eq_true, if_true, if_false]; rfl)).trans (congrArg (DecodeResult.ok · 4) r4)⟩))))
  · refine .inr (.inr (.inr (.inr (.inr ⟨rfl, rfl, rfl, rfl, rfl, ?_⟩))))
    have beyond : ∀ x y z : Bool, ¬ (if (!x) = true then 5 else if (!y) = true then 6
        else if (!z) = true then 7 else 8) < 5 := by decide
    have : ¬ firstClear (continuationMask L) < 5 := by
      simp only [firstClear, continuationMask, h0, h1, h2, h3, h4, Bool.not_true, Bool.false_eq_true, if_false]
      exact beyond _ _ _
    simp [decodeLanes, this]

/-- A shifted lane bit by bit (R404 to R406): the seven payload bits of lane i from bit 7i on, cut at bit 31. -/
theorem shiftedLane_getLsbD (L : Lanes) (i : Fin 5) (b : Nat) (hb : b < 32) :
    (shiftedLane L i).getLsbD b =
      (decide (7 * i.val ≤ b) && decide (b < 7 * i.val + 7) && (L (i.castLE (by decide))).getLsbD (b - 7 * i.val)) := by
  have hs : (shiftLut[i]).toNat = 7 * i.val := by fin_cases i <;> rfl
  simp only [shiftedLane, shiftLanes, widenLanes, stripLanes, hs, BitVec.getLsbD_shiftLeft, hb,
    BitVec.getLsbD_setWidth, BitVec.zeroExtend, BitVec.getLsbD_and, decide_true, Bool.true_and]
  by_cases h1 : 7 * i.val ≤ b
  · by_cases h2 : b < 7 * i.val + 7
    · have hx : (0x7F#8).getLsbD (b - 7 * i.val) = true := by
        have : b - 7 * i.val < 7 := by omega
        generalize b - 7 * i.val = x at this
        interval_cases x <;> rfl
      have h3 : b - 7 * i.val < 32 := by omega
      simp [h1, h2, hx, h3]
    · have hx : (0x7F#8).getLsbD (b - 7 * i.val) = false := by
        have h7 : 7 ≤ b - 7 * i.val := by omega
        rcases Nat.lt_or_ge (b - 7 * i.val) 8 with h | h
        · have : b - 7 * i.val = 7 := by omega
          rw [this]; rfl
        · exact BitVec.getLsbD_of_ge _ _ h
      simp [h1, h2, hx]
  · simp [h1]

/-- Lane i of a packed lane vector (R303). -/
theorem packLanes_lane (L : Lanes) (i : Fin 8) : (packLanes L).extractLsb' (8 * i.val) 8 = L i := by
  apply BitVec.eq_of_getLsbD_eq
  intro b hb
  fin_cases i <;> interval_cases b <;> simp [packLanes]

/-- The fields of a packed response (R304). -/
theorem packRsp_fields (st : Status) (v : Word) (last consumed : BitVec 3) (lv : LaneWord) :
    RspIs (packRsp st v last consumed lv) st.code.toNat last.toNat consumed.toNat v
      (fun i => lv.extractLsb' (8 * i) 8) := by
  have field : ∀ (k w : Nat) (x : BitVec w),
      (∀ b, b < w → (packRsp st v last consumed lv).getLsbD (k + b) = x.getLsbD b) →
      (packRsp st v last consumed lv).extractLsb' k w = x := by
    intro k w x h
    apply BitVec.eq_of_getLsbD_eq
    intro b hb
    simp only [BitVec.getLsbD_extractLsb', hb, decide_true, Bool.true_and, h b hb]
  refine ⟨congrArg BitVec.toNat (field 0 2 st.code ?_), congrArg BitVec.toNat (field 2 3 last ?_),
    congrArg BitVec.toNat (field 5 3 consumed ?_), field 8 24 0#24 ?_, field 32 32 v ?_,
    fun i hi => field (64 + 8 * i) 8 _ ?_⟩ <;> intro b hb
  · interval_cases b <;> simp [packRsp]
  · interval_cases b <;> simp [packRsp]
  · interval_cases b <;> simp [packRsp]
  · interval_cases b <;> simp [packRsp]
  · interval_cases b <;> simp [packRsp]
  · interval_cases i <;> interval_cases b <;> simp [packRsp]

end Sys2Proof.Machine
end

