-- ==== Sys2Proof/Laws/Ops.lean ====
section
/-!
SUPPORT. What the shared operations and the requests can do: the range check, the lane vector load
(41_load_and_read.md R500, 20_memory.md R206, R207, R214), completing a request, and the shape of every next state.
-/

namespace Sys2Proof.Machine

/-- The range check is R500's. -/
theorem inRange_iff (off : Word) (len : Nat) : inRange off len = true ↔ OffsetIn off len :=
  decide_eq_true_iff

/-- How many lanes a load fills when the host leaves the window alone (R206). -/
theorem lanesFilled_of_still {s : State} (h : s.racing = none) (off : Word) :
    s.lanesFilled off = laneCount off s.engine.window.len := by
  simp [State.lanesFilled, h]

/-- How many lanes a load fills when the host changes the window meanwhile (R214): as many as for the length before, or,
if the offset is in range for it, for the length after; at most all eight. -/
theorem lanesFilled_of_racing {s : State} {w : Window} (h : s.racing = some w) (off : Word) :
    s.lanesFilled off ≤ 8 ∧ (s.lanesFilled off = laneCount off s.engine.window.len ∨
      (OffsetIn off w.len → s.lanesFilled off = laneCount off w.len)) := by
  simp only [State.lanesFilled, h]
  split
  · split
    · exact ⟨Nat.min_le_left _ _, .inr fun _ => rfl⟩
    · next hn => exact ⟨Nat.lt_succ_iff.1 (Config.freeCount s.draws).isLt,
        .inr fun hin => absurd ((inRange_iff _ _).2 hin) hn⟩
  · exact ⟨Nat.min_le_left _ _, .inl rfl⟩

/-- A load in range of a window left alone gives its bytes and the zero fill (R206, R207). -/
theorem loadLanes_of_still {s : State} {off : Word} (h : s.racing = none) (hin : OffsetIn off s.engine.window.len) :
    s.loadLanes (offsetIndex off) (laneCount off s.engine.window.len) =
      some (fun i => laneFrom s.engine.window off i.val) := by
  have hlane : ∀ i : Fin 8, s.loadLane (offsetIndex off) (laneCount off s.engine.window.len) i.val =
      some (laneFrom s.engine.window off i.val) := by
    intro i
    have hi := i.isLt
    obtain ⟨h0, h1⟩ := hin
    have hx : offsetIndex off = off.toInt.toNat := rfl
    simp only [State.loadLane, State.laneByte, h, laneCount, hx, laneFrom, windowLane, Window.read?]
    by_cases hb : off.toInt.toNat + i.val < s.engine.window.len
    · rw [if_pos (by omega), if_pos hb, if_pos hb]
    · rw [if_neg (by omega), if_neg hb]
  simp [State.loadLanes, hlane]

/-- A load from a window the host changes meanwhile gives free values and the zero fill (R214). -/
theorem loadLanes_of_racing {s : State} {w : Window} (h : s.racing = some w) (a n : Nat) :
    s.loadLanes a n = some (fun i => if i.val < n then Config.freeByte (s.draws + 1 + i.val) else 0x00#8) := by
  have hlane : ∀ i : Fin 8, s.loadLane a n i.val =
      some (if i.val < n then Config.freeByte (s.draws + 1 + i.val) else 0x00#8) := by
    intro i
    simp only [State.loadLane, State.laneByte, h]
    split <;> rfl
  simp [State.loadLanes, hlane]

/-- A request that loads, in range, the host leaving the window alone, goes on with the window's lanes. -/
theorem withLoaded_of_in {s : State} {off : Word} (k : Nat → Lanes → State → StepOutcome) (h : s.racing = none)
    (hin : OffsetIn off s.engine.window.len) :
    withLoaded off s k =
      k (laneCount off s.engine.window.len) (fun i => laneFrom s.engine.window off i.val) s := by
  simp only [withLoaded, lanesFilled_of_still h, (inRange_iff _ _).2 hin, if_true, loadLanes_of_still h hin,
    State.countDraws_of_still s h]

/-- A request that loads, in range, the host changing the window meanwhile, goes on with free lanes and the zero fill. -/
theorem withLoaded_of_racing {s : State} {off : Word} {w : Window} (k : Nat → Lanes → State → StepOutcome)
    (h : s.racing = some w) (hin : OffsetIn off s.engine.window.len) :
    withLoaded off s k = k (s.lanesFilled off)
      (fun i => if i.val < s.lanesFilled off then Config.freeByte (s.draws + 1 + i.val) else 0x00#8) s.countDraws := by
  simp only [withLoaded, (inRange_iff _ _).2 hin, if_true, loadLanes_of_racing h]

/-- A request that loads, out of range when it starts, answers `OutOfRange`, whatever the host does meanwhile (R500). -/
theorem withLoaded_of_out {s : State} {off : Word} (k : Nat → Lanes → State → StepOutcome)
    (hout : ¬ OffsetIn off s.engine.window.len) :
    withLoaded off s k = .next (s.answered (errorRsp .outOfRange)) := by
  have : ¬ inRange off s.engine.window.len = true := fun hi => hout ((inRange_iff _ _).1 hi)
  simp only [withLoaded, if_neg this, State.raise_eq_answered]

/-- Everything a request that loads can do, whatever the host does meanwhile: answer `OutOfRange` when the offset is out of
range at its start, else go on with some lanes; it never reads outside the window. -/
theorem withLoaded_cases (off : Word) (s : State) :
    (¬ OffsetIn off s.engine.window.len ∧ ∀ k, withLoaded off s k = .next (s.answered (errorRsp .outOfRange))) ∨
    (OffsetIn off s.engine.window.len ∧ ∃ n L, ∀ k, withLoaded off s k = k n L s.countDraws) := by
  by_cases hin : OffsetIn off s.engine.window.len
  · cases h : s.racing with
    | none => exact .inr ⟨hin, _, _, fun k => (withLoaded_of_in k h hin).trans (by rw [State.countDraws_of_still s h])⟩
    | some w => exact .inr ⟨hin, _, _, fun k => withLoaded_of_racing k h hin⟩
  · exact .inl ⟨hin, fun k => withLoaded_of_out k hin⟩

/-- Both ways a decode can complete (R420, R502, R503). -/
theorem completeDecode_cases (r : DecodeResult) (lv : LaneWord) (s : State) :
    (r = .malformed ∧ completeDecode r lv s = .next (s.answered (errorRsp .malformed))) ∨
    ∃ v last, r = .ok v last ∧ completeDecode r lv s = .next (s.answered (decodedRsp v last lv)) := by
  cases r with
  | malformed => exact .inl ⟨rfl, rfl⟩
  | ok v last => exact .inr ⟨v, last, rfl, rfl⟩

/-- Both ways an advancing decode can complete (R504, R706). -/
theorem completeAdvance_cases (r : DecodeResult) (lv : LaneWord) (s : State) :
    (r = .malformed ∧ completeAdvance r lv s = .next (s.answered (errorRsp .malformed))) ∨
    ∃ v last, r = .ok v last ∧ completeAdvance r lv s =
      .next ((s.answered (decodedRsp v last lv)).atCursor (advanceCursor s.engine.cursor last)) := by
  cases r with
  | malformed => exact .inl ⟨rfl, rfl⟩
  | ok v last => exact .inr ⟨v, last, rfl, rfl⟩

/-- Under the block's policy a loaded lane vector decodes as any other (R506). -/
theorem decodeLoaded_blockPolicy (n : Nat) (L : Lanes) : decodeLoaded blockPolicy n L = decodeLanes L := by
  simp only [decodeLoaded, blockPolicy]
  cases decodeLanes L <;> rfl

/-- The fields of an error response (R306). -/
theorem errorRsp_fields (st : Status) : RspIsError (errorRsp st) st.code.toNat := by
  obtain ⟨h0, h1, h2, h3, h4, h5⟩ := packRsp_fields st 0#32 0#3 0#3 0#64
  exact ⟨h0, h1, h2, h3, h4, fun i hi => (h5 i hi).trans (by simp)⟩

/-- The fields of the response of a decode that succeeded (R420, R502 to R504). -/
theorem decodedRsp_fields (v : Word) (last : Fin 5) (lv : LaneWord) :
    RspIs (decodedRsp v last lv) 0 last.val (last.val + 1) v (fun i => lv.extractLsb' (8 * i) 8) := by
  have h := packRsp_fields .ok v (lastField last) (consumedField last) lv
  have hl : (lastField last).toNat = last.val := by fin_cases last <;> rfl
  have hc : (consumedField last).toNat = last.val + 1 := by fin_cases last <;> rfl
  rw [hl, hc] at h
  exact h

/-! ### The requests over the shared operations -/

theorem exec_decode (o : Word) (l : LaneWord) (s : State) :
    exec (.decode o l) s = completeDecode (decodeLanes (unpackLanes l)) l s := rfl

theorem exec_load (o : Word) (l : LaneWord) (s : State) : exec (.load o l) s =
    withLoaded o s fun _ L t => .next (t.answered (packRsp .ok 0#32 0#3 0#3 (packLanes L))) := rfl

theorem exec_readAt (o : Word) (l : LaneWord) (s : State) : exec (.readAt o l) s =
    withLoaded o s fun _ L t => completeDecode (decodeLanes L) (packLanes L) t := by
  simp only [exec, execReadAt, decodeLoaded_blockPolicy]

theorem exec_peek (o : Word) (l : LaneWord) (s : State) : exec (.peek o l) s =
    withLoaded s.engine.cursor s fun _ L t => completeDecode (decodeLanes L) (packLanes L) t := by
  simp only [exec, execPeek, decodeLoaded_blockPolicy]

theorem exec_readAdv (o : Word) (l : LaneWord) (s : State) : exec (.readAdv o l) s =
    withLoaded s.engine.cursor s fun _ L t => completeAdvance (decodeLanes L) (packLanes L) t := by
  simp only [exec, execReadAdv, decodeLoaded_blockPolicy]

theorem exec_setCursor (o : Word) (l : LaneWord) (s : State) : exec (.setCursor o l) s =
    .next ((s.answered (packRsp .ok 0#32 0#3 0#3 0#64)).atCursor o) := rfl

theorem exec_getCursor (o : Word) (l : LaneWord) (s : State) : exec (.getCursor o l) s =
    .next (s.answered (packRsp .ok s.engine.cursor 0#3 0#3 0#64)) := rfl

theorem exec_illegal (c o : Word) (l : LaneWord) (s : State) : exec (.illegal c o l) s =
    .next (s.answered (errorRsp .illegalRequest)) := rfl

/-- What a request can do to the state, whatever the host does meanwhile: it answers one response, may move the cursor if
it is `SET_CURSOR` or a `READ_ADV` that succeeds, and counts the free values it drew. -/
theorem exec_shape (i : Instr) (s : State) :
    ∃ r c u, exec i s = .next ((u.answered r).atCursor c) ∧ (u = s ∨ u = s.countDraws) ∧
      (c = s.engine.cursor ∨ (∃ l, i = .setCursor c l) ∨
        ∃ o l v last lv, i = .readAdv o l ∧ c = advanceCursor s.engine.cursor last ∧ r = decodedRsp v last lv) := by
  have stay : ∀ (r : RspWord) (u : State), exec i s = .next (u.answered r) → (u = s ∨ u = s.countDraws) →
      ∃ r c u, exec i s = .next ((u.answered r).atCursor c) ∧ (u = s ∨ u = s.countDraws) ∧
        (c = s.engine.cursor ∨ (∃ l, i = .setCursor c l) ∨
          ∃ o l v last lv, i = .readAdv o l ∧ c = advanceCursor s.engine.cursor last ∧ r = decodedRsp v last lv) :=
    fun r u h hu => ⟨r, u.engine.cursor, u, h, hu, .inl (by rcases hu with rfl | rfl <;> simp)⟩
  have read : ∀ off, exec i s = withLoaded off s
      (fun _ L t => completeDecode (decodeLanes L) (packLanes L) t) →
      ∃ r u, exec i s = .next (u.answered r) ∧ (u = s ∨ u = s.countDraws) := by
    intro off hi
    rcases withLoaded_cases off s with ⟨-, h⟩ | ⟨-, n, L, h⟩
    · exact ⟨_, _, hi.trans (h _), .inl rfl⟩
    · rw [hi, h]
      rcases completeDecode_cases (decodeLanes L) (packLanes L) s.countDraws with ⟨-, g⟩ | ⟨v, last, -, g⟩
      · exact ⟨_, _, g, .inr rfl⟩
      · exact ⟨_, _, g, .inr rfl⟩
  cases i with
  | decode o l =>
    rcases completeDecode_cases (decodeLanes (unpackLanes l)) l s with ⟨-, h⟩ | ⟨v, last, -, h⟩
    · exact stay _ s h (.inl rfl)
    · exact stay _ s h (.inl rfl)
  | load o l =>
    rcases withLoaded_cases o s with ⟨-, h⟩ | ⟨-, n, L, h⟩
    · exact stay _ _ ((exec_load o l s).trans (h _)) (.inl rfl)
    · exact stay _ _ ((exec_load o l s).trans (h _)) (.inr rfl)
  | readAt o l =>
    obtain ⟨r, u, h, hu⟩ := read o (exec_readAt o l s)
    exact stay r u h hu
  | peek o l =>
    obtain ⟨r, u, h, hu⟩ := read _ (exec_peek o l s)
    exact stay r u h hu
  | readAdv o l =>
    rcases withLoaded_cases s.engine.cursor s with ⟨-, h⟩ | ⟨-, n, L, h⟩
    · exact stay _ _ ((exec_readAdv o l s).trans (h _)) (.inl rfl)
    · have hx := (exec_readAdv o l s).trans (h _)
      rcases completeAdvance_cases (decodeLanes L) (packLanes L) s.countDraws with ⟨-, g⟩ | ⟨v, last, -, g⟩
      · exact stay _ _ (hx.trans g) (.inr rfl)
      · exact ⟨_, _, _, hx.trans g, .inr rfl, .inr (.inr ⟨o, l, v, last, _, rfl, by simp, rfl⟩)⟩
  | setCursor o l => exact ⟨_, o, s, exec_setCursor o l s, .inl rfl, .inr (.inl ⟨l, rfl⟩)⟩
  | getCursor o l => exact stay _ s rfl (.inl rfl)
  | illegal c o l => exact stay _ s rfl (.inl rfl)

end Sys2Proof.Machine
end

