-- ==== Sys2Proof/Laws/PerInstr.lean ====
section
/-!
SUPPORT. For each request: the fields of its encoding (30_encoding.md R300, R307). Bits 31..0 are the control word, bits
63..32 the `OFFSET` operand, bits 127..64 the `LV_IN` operand.
-/

namespace Sys2Proof.Laws

open Sys2Proof

/-- The fields of a packed request word (R300). -/
theorem packReq_fields (lv : LaneWord) (off ctl : Word) :
    (packReq lv off ctl).ctl = ctl ∧ (packReq lv off ctl).offset = off ∧ (packReq lv off ctl).lvIn = lv := by
  refine ⟨?_, ?_, ?_⟩ <;> apply BitVec.eq_of_getLsbD_eq <;> intro b hb <;> interval_cases b <;>
    simp [packReq, ReqWord.ctl, ReqWord.offset, ReqWord.lvIn]

/-- `CTL` is `RSV` above `OP` (R300). -/
theorem op_of_ctl (req : ReqWord) :
    req.op = req.ctl.extractLsb' 0 3 ∧ req.rsv = req.ctl.extractLsb' 3 29 := by
  refine ⟨?_, ?_⟩ <;> apply BitVec.eq_of_getLsbD_eq <;> intro b hb <;> interval_cases b <;>
    simp [ReqWord.op, ReqWord.rsv, ReqWord.ctl]

/-- The encoding of a request holds its control word and its two operand fields, each in its place. -/
def EncodeFields.Statement (i : Instr) : Prop :=
  (encode i).ctl = i.ctl ∧ (encode i).offset = i.offset ∧ (encode i).lvIn = i.lvIn

theorem EncodeFields.decode (o : Word) (l : LaneWord) : EncodeFields.Statement (.decode o l) := packReq_fields _ _ _
theorem EncodeFields.load (o : Word) (l : LaneWord) : EncodeFields.Statement (.load o l) := packReq_fields _ _ _
theorem EncodeFields.readAt (o : Word) (l : LaneWord) : EncodeFields.Statement (.readAt o l) := packReq_fields _ _ _
theorem EncodeFields.peek (o : Word) (l : LaneWord) : EncodeFields.Statement (.peek o l) := packReq_fields _ _ _
theorem EncodeFields.readAdv (o : Word) (l : LaneWord) : EncodeFields.Statement (.readAdv o l) := packReq_fields _ _ _
theorem EncodeFields.setCursor (o : Word) (l : LaneWord) : EncodeFields.Statement (.setCursor o l) :=
  packReq_fields _ _ _
theorem EncodeFields.getCursor (o : Word) (l : LaneWord) : EncodeFields.Statement (.getCursor o l) :=
  packReq_fields _ _ _
theorem EncodeFields.illegal (c o : Word) (l : LaneWord) : EncodeFields.Statement (.illegal c o l) :=
  packReq_fields _ _ _

end Sys2Proof.Laws
end

