-- ==== Sys2Proof/Tests/Slice0.lean ====
section
/-!
SUPPORT. Tests of the model against words and vectors the spec writes out (30_encoding.md, 95_test_vectors.md; each test
names its vector), the WellFormed smoke test, and witnesses that the hypotheses of the statements can be met.
-/

namespace Sys2Proof.Tests

open Sys2Proof Sys2Proof.Machine

/-! ### Helpers -/

/-- A window that holds these bytes. -/
def win (bs : List Byte) : Window :=
  ((List.range bs.length).zip bs).foldl Window.putCell { len := bs.length, bytes := [] }

/-- One instance with this window and this cursor, the host with nothing left to do. -/
def onBytes (bs : List Byte) (cursor : Word) : State :=
  { engine := { cursor := cursor, window := win bs, inReset := false, responses := [] }
    others := [], host := [], racing := none, draws := 0 }

/-- `onBytes`, the host changing the window to the bytes `new` while the request in progress runs. -/
def racingOn (bs new : List Byte) (cursor : Word) : State := { onBytes bs cursor with racing := some (win new) }

/-- The newest response and the cursor after an outcome. -/
def seen : StepOutcome → Option (Option RspWord × Word)
  | .next t => some (t.engine.responses.head?, t.engine.cursor)
  | .fault _ => none
  | .refused _ => none

/-- One step with a request word presented. -/
def run1 (s : State) (req : Nat) : Option (Option RspWord × Word) := seen (step (s.withFetchWord 128 req))

/-! ### WellFormed and decoding -/

/-- The one check of WellFormed refuses a reserved-row term whose control word selects an operation (R309). -/
theorem test_wf_refuses_legal_control_word :
    (Instr.illegal 0x00000004#32 0#32 0#64).wf = false ∧ (Instr.illegal 0x00000006#32 0#32 0#64).wf = false ∧
    (Instr.illegal 0x00000007#32 0#32 0#64).wf = true ∧ (Instr.illegal 0x00000008#32 0#32 0#64).wf = true := by decide

/-- R311's example `vde.decode {0xE5,0x8E,0x26}`. -/
theorem test_decode_word_decode :
    decodeTableWord 128 0x0000000000268EE5_00000000_00000000 = some (.decode 0#32 0x0000000000268EE5#64) := by decide
/-- V-L6. -/
theorem test_decode_word_load :
    decodeTableWord 128 0x0000000000000000_FFFFFFFF_00000001 = some (.load 0xFFFFFFFF#32 0#64) := by decide
/-- R311's example `vde.read_at -1`. -/
theorem test_decode_word_readAt :
    decodeTableWord 128 0x0000000000000000_FFFFFFFF_00000002 = some (.readAt 0xFFFFFFFF#32 0#64) := by decide
/-- V-R11; the table numbers 32 bits of it. -/
theorem test_decode_word_peek : decodeTableWord 32 3 = some (.peek 0#32 0#64) := by decide
/-- V-R14. -/
theorem test_decode_word_readAdv : decodeTableWord 32 4 = some (.readAdv 0#32 0#64) := by decide
/-- R600's example, with V-C5's ignored field. -/
theorem test_decode_word_setCursor :
    decodeTableWord 128 0xFFFFFFFFFFFFFFFF_00000003_00000005 = some (.setCursor 3#32 0xFFFFFFFFFFFFFFFF#64) := by decide
/-- V-C1. -/
theorem test_decode_word_getCursor : decodeTableWord 32 6 = some (.getCursor 0#32 0#64) := by decide
/-- V-I1 to V-I5. -/
theorem test_decode_word_illegal :
    [0x00000007, 0x00000008, 0x80000004, 0xFFFFFFFF, 0x0000000F].map (decodeTableWord 32) =
      [0x00000007#32, 0x00000008#32, 0x80000004#32, 0xFFFFFFFF#32, 0x0000000F#32].map
        (fun c => some (.illegal c 0#32 0#64)) := by decide
/-- R311, R312: `vde.rewind`, `vde.read_at -1`, `vde.decode {0xE5,0x8E,0x26}`; a brace list has 1 to 8 bytes. -/
theorem test_assembler :
    AsmLine.assemble .rewind = some 0x0000000000000000_00000000_00000005#128 ∧
    AsmLine.assemble (.readAt (.dec (-1))) = some 0x0000000000000000_FFFFFFFF_00000002#128 ∧
    AsmLine.assemble (.decode (.bytes [0xE5#8, 0x8E#8, 0x26#8])) = some 0x0000000000268EE5_00000000_00000000#128 ∧
    AsmLine.assemble (.decode (.bytes [])) = none ∧ AsmLine.assemble (.load (.dec (2 ^ 31))) = none := by decide

/-! ### Requests -/

/-- V-D14: bits 6..4 of the fifth byte are dropped. -/
theorem test_decode_truncates_fifth_byte :
    run1 (onBytes [] 0#32) 0x0000007FFFFFFFFF_00000000_00000000 =
      some (some 0x0000007FFFFFFFFF_FFFFFFFF_000000B0#128, 0#32) := by decide
/-- V-D20: the continuation bit of the fifth byte is tested. -/
theorem test_decode_malformed :
    run1 (onBytes [] 5#32) 0x000000FF80808080_00000000_00000000 =
      some (some 0x0000000000000000_00000000_00000002#128, 5#32) := by decide
/-- V-L3: the eighth lane is zero-filled. -/
theorem test_load_zero_fill :
    run1 (onBytes [0x11#8, 0x22#8, 0x33#8, 0x44#8, 0x55#8, 0x66#8, 0x77#8, 0x88#8, 0x99#8, 0xAA#8] 0#32)
      0x0000000000000000_00000003_00000001 = some (some 0x00AA998877665544_00000000_00000000#128, 0#32) := by decide
/-- V-L5: an offset equal to the readable length. -/
theorem test_load_at_length_is_out_of_range :
    run1 (onBytes [0x11#8, 0x22#8, 0x33#8, 0x44#8, 0x55#8, 0x66#8, 0x77#8, 0x88#8, 0x99#8, 0xAA#8] 0#32)
      0x0000000000000000_0000000A_00000001 = some (some 0x0000000000000000_00000000_00000001#128, 0#32) := by decide
/-- V-R8. -/
theorem test_readAt_value :
    run1 (onBytes [0x00#8, 0xE5#8, 0x8E#8, 0x26#8] 0#32) 0x0000000000000000_00000001_00000002 =
      some (some 0x0000000000268EE5_00098765_00000068#128, 0#32) := by decide
/-- V-R6: a negative offset, out of range before malformed. -/
theorem test_readAt_priority :
    run1 (onBytes [0x80#8, 0x80#8, 0x80#8, 0x80#8, 0x80#8] 0#32) 0x0000000000000000_FFFFFFFB_00000002 =
      some (some 0x0000000000000000_00000000_00000001#128, 0#32) := by decide
/-- V-R11. -/
theorem test_peek_value :
    run1 (onBytes [0xAC#8, 0x02#8] 0#32) 0x0000000000000000_00000000_00000003 =
      some (some 0x00000000000002AC_0000012C_00000044#128, 0#32) := by decide
/-- V-R13: a negative cursor. -/
theorem test_peek_negative_cursor :
    run1 (onBytes [0xAC#8, 0x02#8] 0xFFFFFFFF#32) 0x0000000000000000_00000000_00000003 =
      some (some 0x0000000000000000_00000000_00000001#128, 0xFFFFFFFF#32) := by decide
/-- V-R14. -/
theorem test_readAdv_advances :
    run1 (onBytes [0xFF#8, 0x01#8, 0x6A#8] 0#32) 0x0000000000000000_00000000_00000004 =
      some (some 0x00000000006A01FF_000000FF_00000044#128, 2#32) := by decide
/-- V-R18's window: 2^31 - 1 bytes, the last of them 0x80. -/
def longWindow : State :=
  { onBytes [] 0x7FFFFFFE#32 with
    engine := { cursor := 0x7FFFFFFE#32, window := { len := 0x7FFFFFFF, bytes := [(0x7FFFFFFE, 0x80#8)] },
                inReset := false, responses := [] } }
/-- V-R18: a truncated varint, and a cursor that wraps. -/
theorem test_readAdv_wraps :
    run1 longWindow 0x0000000000000000_00000000_00000004 =
      some (some 0x0000000000000080_00000000_00000044#128, 0x80000000#32) := by decide
/-- V-C5: `LV_IN` is ignored. -/
theorem test_setCursor :
    run1 (onBytes [0x6A#8] 1#32) 0xFFFFFFFFFFFFFFFF_00000003_00000005 =
      some (some 0x0000000000000000_00000000_00000000#128, 3#32) := by decide
/-- V-C3. -/
theorem test_getCursor :
    run1 (onBytes [] 0xFFFFFFFF#32) 0x0000000000000000_00000000_00000006 =
      some (some 0x0000000000000000_FFFFFFFF_00000000#128, 0xFFFFFFFF#32) := by decide
/-- R500, D10: the range check uses the readable length at the start of the request, not the one after a change. -/
theorem test_range_check_is_at_start :
    seen (exec (.load 1#32 0#64) (racingOn [0x6A#8] [0x01#8, 0x02#8] 0#32)) =
      some (some 0x0000000000000000_00000000_00000001#128, 0#32) := by decide
/-- V-I3: `RSV` set with `OP = READ_ADV`: no advance. -/
theorem test_illegal_no_advance :
    run1 (onBytes [0x6A#8] 0#32) 0x0000000000000000_00000000_80000004 =
      some (some 0x0000000000000000_00000000_00000003#128, 0#32) := by decide
/-- V-C1: the first request after reset. -/
theorem test_first_request_after_reset :
    run1 State.reset 0x0000000000000000_00000000_00000006 =
      some (some 0x0000000000000000_00000000_00000000#128, 0#32) := by decide
/-- R801: in reset a request has no step. -/
theorem test_request_in_reset :
    step { onBytes [] 0#32 with
      engine := { (onBytes [] 0#32).engine with inReset := true }, host := [.present 0x6#128] } =
        .fault .requestDuringReset := rfl

/-! ### Witnesses: the hypotheses of each statement can be met, each clause at a boundary of its range -/

theorem witness_DecodeInvertsEncode :
    (Instr.illegal 7#32 1#32 2#64).wf = true ∧ (Instr.illegal 0xFFFFFFFF#32 1#32 2#64).wf = true ∧
    (Instr.readAdv 1#32 2#64).wf = true := by decide
theorem witness_DecodeSelectsByControlWord :
    ((0x00000008#128).extractLsb' 3 29 ≠ 0#29 ∧ (0x80000000#128).extractLsb' 3 29 ≠ 0#29) ∧
    ((0x00000007#128).extractLsb' 0 3 = 7#3 ∧ (0x00000007#128).extractLsb' 3 29 = 0#29) ∧
    ∀ op : Fin 7, (BitVec.ofNat 128 op.val).extractLsb' 3 29 = 0#29 ∧
      (BitVec.ofNat 128 op.val).extractLsb' 0 3 = BitVec.ofNat 3 op.val := by decide
theorem witness_AssembledWordsHaveTableFields :
    (LvArg.hex 0x123456789ABCDEF0#64).word = some 0x123456789ABCDEF0#64 ∧
    (LvArg.bytes [0xE5#8, 0x8E#8, 0x26#8]).word = some 0x268EE5#64 ∧ (OffArg.dec (-1)).word = some 0xFFFFFFFF#32 ∧
    (OffArg.dec (-2 ^ 31)).word = some 0x80000000#32 ∧ (OffArg.dec (2 ^ 31 - 1)).word = some 0x7FFFFFFF#32 ∧
    (1 ≤ [0x01#8].length ∧ [0x01#8].length ≤ 8) ∧
    (1 ≤ (List.replicate 8 0xFF#8).length ∧ (List.replicate 8 0xFF#8).length ≤ 8) := by decide
theorem witness_DecodedValueClosedForm :
    decodeLanes (unpackLanes 0x0000000F80808080#64) = .ok 0xF0000000#32 4 ∧
    decodeLanes (unpackLanes 0x0000000001808080#64) = .ok 0x00200000#32 3 ∧
    decodeLanes (unpackLanes 0x7F#64) = .ok 0x7F#32 0 := by decide
theorem witness_HighBitsOfFifthByteDropped :
    (∀ i : Fin 8, i ≠ 4 → unpackLanes 0x0000007880808080#64 i = unpackLanes 0x0000000880808080#64 i) ∧
    (unpackLanes 0x0000007880808080#64 4).getLsbD 7 = (unpackLanes 0x0000000880808080#64 4).getLsbD 7 ∧
    (unpackLanes 0x0000007880808080#64 4).extractLsb' 0 4 = (unpackLanes 0x0000000880808080#64 4).extractLsb' 0 4 := by
  decide
theorem witness_DiscardedLanesHaveNoEffect :
    (∀ i : Fin 8, i.val < 8 → (unpackLanes 0xFFFFFFFFFFFFFFFF#64 i).getLsbD 7 = true) ∧
    (∀ i : Fin 8, i.val = 8 → (unpackLanes 0xFFFFFFFFFFFFFFFF#64 i).getLsbD 7 = false) ∧
    (∀ i : Fin 8, i.val ≤ min 8 4 → unpackLanes 0x000000FFFFFFFFFF#64 i = unpackLanes 0xFFFFFFFFFFFFFFFF#64 i) ∧
    (∀ i : Fin 8, i.val < 1 → (unpackLanes 0x01FF#64 i).getLsbD 7 = true) ∧
    (∀ i : Fin 8, i.val = 1 → (unpackLanes 0x01FF#64 i).getLsbD 7 = false) ∧
    (∀ i : Fin 8, i.val ≤ min 1 4 → unpackLanes 0x9901FF#64 i = unpackLanes 0x01FF#64 i) := by decide
theorem witness_NonMinimalEncodingAccepted :
    decodeLanes (unpackLanes 0x01808080#64) = .ok 0x00200000#32 3 ∧ (4 : Fin 5).val = (3 : Fin 5).val + 1 ∧
    (∀ i : Fin 8, i.val < 3 → unpackLanes 0x0081808080#64 i = unpackLanes 0x01808080#64 i) ∧
    unpackLanes 0x0081808080#64 3 = unpackLanes 0x01808080#64 3 ||| 0x80#8 ∧
    unpackLanes 0x0081808080#64 4 = 0x00#8 := by decide
theorem witness_MinimalVarintRoundTrip :
    minimalVarint 0xFFFFFFFF#32 = [0xFF#8, 0xFF#8, 0xFF#8, 0xFF#8, 0x0F#8] ∧ minimalVarint 0#32 = [0x00#8] ∧
    (∀ (i : Nat) (h : i < (minimalVarint 0xFFFFFFFF#32).length),
      laneAt (unpackLanes 0x0000000FFFFFFFFF#64) i = (minimalVarint 0xFFFFFFFF#32)[i]) := by decide
theorem witness_TruncatedPoliciesDifferOnlyAtWindowEnd :
    decodeLanes (unpackLanes 0x01FF#64) = .ok 0xFF#32 1 ∧ (1 : Fin 5).val < 2 ∧ 1 ≤ (1 : Fin 5).val := by decide
theorem witness_DecodeRequestReturnsValue :
    TerminatesAt (fun i => (0x7F#64).extractLsb' (8 * i) 8) 0 ∧
    TerminatesAt (fun i => (0x0000007FFFFFFFFF#64).extractLsb' (8 * i) 8) 4 := by decide
theorem witness_DecodeRequestReportsMalformed :
    ∀ i : Nat, i < 5 → ((0x8080808080#64).extractLsb' (8 * i) 8).getLsbD 7 = true := by decide
theorem witness_LoadReturnsWindowLanes :
    (onBytes [0x11#8, 0x22#8] 0#32).racing = none ∧ OffsetIn 0#32 (onBytes [0x11#8, 0x22#8] 0#32).engine.window.len ∧
    OffsetIn 1#32 (onBytes [0x11#8, 0x22#8] 0#32).engine.window.len := by decide
theorem witness_ReadAtReturnsValue :
    OffsetIn 1#32 (win [0x00#8, 0xFF#8, 0xFF#8, 0xFF#8, 0xFF#8, 0x0F#8]).len ∧
    TerminatesAt (laneFrom (win [0x00#8, 0xFF#8, 0xFF#8, 0xFF#8, 0xFF#8, 0x0F#8]) 1#32) 4 ∧
    TerminatesAt (laneFrom (win [0x00#8, 0xFF#8, 0xFF#8, 0xFF#8, 0xFF#8, 0x0F#8]) 0#32) 0 := by decide
theorem witness_PeekReturnsValueAtCursor :
    (onBytes [0xAC#8, 0x02#8] 0#32).racing = none ∧
    OffsetIn (onBytes [0xAC#8, 0x02#8] 0#32).engine.cursor (onBytes [0xAC#8, 0x02#8] 0#32).engine.window.len ∧
    TerminatesAt (laneFrom (win [0xAC#8, 0x02#8]) 0#32) 1 := by decide
theorem witness_ReadAdvReturnsValueAndAdvances :
    longWindow.racing = none ∧ OffsetIn longWindow.engine.cursor longWindow.engine.window.len ∧
    TerminatesAt (laneFrom longWindow.engine.window longWindow.engine.cursor) 1 := by decide
theorem witness_ReadsReportMalformed :
    OffsetIn 0#32 (onBytes [0x80#8, 0x80#8, 0x80#8, 0x80#8, 0x80#8] 0#32).engine.window.len ∧
    (onBytes [0x80#8, 0x80#8, 0x80#8, 0x80#8, 0x80#8] 0#32).engine.cursor = 0#32 ∧
    ∀ j : Nat, j < 5 → 128 ≤ (laneFrom (win [0x80#8, 0x80#8, 0x80#8, 0x80#8, 0x80#8]) 0#32 j).toNat := by decide
theorem witness_LoadsOutOfRangeReportIt :
    loadsFrom (.load 2#32 0#64) (onBytes [0xAC#8, 0x02#8] 0#32) = some 2#32 ∧
    ((onBytes [0xAC#8, 0x02#8] 0#32).engine.window.len : Int) ≤ (2#32 : Word).toInt ∧
    loadsFrom (.readAdv 0#32 0#64) (onBytes [0xAC#8] 0x80000000#32) = some 0x80000000#32 ∧
    (0x80000000#32 : Word).toInt < 0 := by decide
theorem witness_EmptyWindowIsOutOfRange :
    loadsFrom (.peek 0#32 0#64) (onBytes [] 0#32) = some 0#32 ∧ (onBytes [] 0#32).engine.window.len = 0 := by decide
theorem witness_SetCursorWritesOffset :
    (0xFFFFFFFFFFFFFFFF_FFFFFFFF_00000005#128).extractLsb' 0 32 = 5#32 := by decide
theorem witness_GetCursorReturnsCursor :
    (0xFFFFFFFFFFFFFFFF_FFFFFFFF_00000006#128).extractLsb' 0 32 = 6#32 := by decide
theorem witness_IllegalRequestReportsIt :
    ((0x07#128).extractLsb' 0 3 = 7#3 ∧ (0x80000004#128).extractLsb' 3 29 ≠ 0#29) ∧
    (0x07#32).extractLsb' 0 3 = 7#3 ∧ (0x80000004#32).extractLsb' 3 29 ≠ 0#29 := by decide
theorem witness_TruncatedVarintDecodesAgainstZeroFill :
    (longWindow.engine.window.len ≤ 2 ^ 31 - 1 ∧ OffsetIn 0x7FFFFFFE#32 longWindow.engine.window.len ∧
      (0x7FFFFFFE#32 : Word).toInt.toNat + 1 = longWindow.engine.window.len ∧
      0x7FFFFFFE#32 = longWindow.engine.cursor ∧
      ∀ j : Nat, j < 1 → 128 ≤ (laneFrom longWindow.engine.window 0x7FFFFFFE#32 j).toNat) ∧
    ((0#32 : Word).toInt.toNat + 4 = (win [0xFF#8, 0xFF#8, 0xFF#8, 0xFF#8]).len ∧
      ∀ j : Nat, j < 4 → 128 ≤ (laneFrom (win [0xFF#8, 0xFF#8, 0xFF#8, 0xFF#8]) 0#32 j).toNat) := by decide
theorem witness_MalformedReadNeedsFiveBytes :
    ∃ t r, exec (.peek 0#32 0#64) (onBytes [0x80#8, 0x80#8, 0x80#8, 0x80#8, 0x80#8] 0#32) = .next t ∧
      t.engine.responses = [r] ∧ (r.extractLsb' 0 2).toNat = 2 := ⟨_, _, rfl, rfl, by decide⟩
theorem witness_LastByteOfWindowDecodes :
    (1#32 : Word).toInt.toNat + 1 = (win [0x80#8, 0x7F#8]).len ∧
    (win [0x80#8, 0x7F#8]).read? (1#32 : Word).toInt.toNat = some 0x7F#8 ∧ (0x7F#8 : Byte).toNat < 0x80 ∧
    (onBytes [0x80#8, 0x7F#8] 1#32).engine.cursor = 1#32 := by decide
theorem witness_CursorAdvanceWraps :
    ∃ t r, exec (.readAdv 0#32 0#64) longWindow = .next t ∧ t.engine.responses = [r] ∧
      (r.extractLsb' 0 2).toNat = 0 ∧ t.engine.cursor.toInt < 0 := ⟨_, _, rfl, rfl, by decide, by decide⟩
theorem witness_SuccessiveReadsDecodeInOrder :
    (onBytes [0xFF#8, 0x01#8, 0x6A#8] 0#32).engine.window.wf ∧
    (0#32 : Word).toInt.toNat + (1 + 1) + (0 + 1) = (win [0xFF#8, 0x01#8, 0x6A#8]).len ∧
    TerminatesAt (fun i => (win [0xFF#8, 0x01#8, 0x6A#8]).bytes.read (0 + i)) 1 ∧
    TerminatesAt (fun i => (win [0xFF#8, 0x01#8, 0x6A#8]).bytes.read (0 + (1 + 1) + i)) 0 := by decide
theorem witness_ReadAtRoundTrip :
    HoldsAt (win [0x00#8, 0xFF#8, 0xFF#8, 0xFF#8, 0xFF#8, 0x0F#8]) 1#32 (minimalVarint 0xFFFFFFFF#32) ∧
    HoldsAt (win [0x00#8]) 0#32 (minimalVarint 0#32) := by decide
theorem witness_CursorReadsAreReadAtCursor :
    (∃ t r, exec (.readAt 0#32 0#64) (onBytes [0x6A#8] 0#32) = .next t ∧ t.engine.responses = [r] ∧
      (r.extractLsb' 0 2).toNat = 0) ∧
    (∃ t r, exec (.readAt 1#32 0#64) (onBytes [0x6A#8] 1#32) = .next t ∧ t.engine.responses = [r] ∧
      (r.extractLsb' 0 2).toNat = 1) ∧
    ∃ t r, exec (.readAt 0#32 0#64) (racingOn [0x6A#8] [] 0#32) = .next t ∧ t.engine.responses = [r] := by
  refine ⟨⟨_, _, rfl, rfl, by decide⟩, ⟨_, _, rfl, rfl, by decide⟩, ?_⟩
  obtain ⟨r, c, u, h, hu, -⟩ := exec_shape (.readAt 0#32 0#64) (racingOn [0x6A#8] [] 0#32)
  exact ⟨_, r, h, by rcases hu with rfl | rfl <;> simp <;> rfl⟩
theorem witness_ReadAtIsDecodeOfLoad :
    ∃ t r, exec (.load 0#32 0#64) (onBytes [0xAC#8, 0x02#8] 0#32) = .next t ∧
      t.engine.responses = r :: (onBytes [0xAC#8, 0x02#8] 0#32).engine.responses ∧ (r.extractLsb' 0 2).toNat = 0 :=
  ⟨_, _, rfl, rfl, by decide⟩
theorem witness_RequestFrame :
    ∃ t, exec (.peek 0#32 0#64) (onBytes [0x6A#8] 0#32) = .next t := ⟨_, rfl⟩
theorem witness_OnlyTwoRequestsMoveCursor :
    (∃ t r, exec (.setCursor 7#32 0#64) (onBytes [] 0#32) = .next t ∧ t.engine.responses = [r] ∧
      t.engine.cursor ≠ 0#32) ∧
    ∃ t r, exec (.readAdv 0#32 0#64) (onBytes [0x6A#8] 0#32) = .next t ∧ t.engine.responses = [r] ∧
      t.engine.cursor ≠ 0#32 ∧ (r.extractLsb' 0 2).toNat = 0 :=
  ⟨⟨_, _, rfl, rfl, by decide⟩, ⟨_, _, rfl, rfl, by decide, by decide⟩⟩
theorem witness_StatusIsFirstCauseThatApplies :
    (∃ t r, exec (.illegal 7#32 0#32 0#64) (onBytes [] 0#32) = .next t ∧ t.engine.responses = [r] ∧
      (r.extractLsb' 0 2).toNat = 3) ∧
    (∃ t r, exec (.readAt 0xFFFFFFFB#32 0#64) (onBytes [0x80#8, 0x80#8, 0x80#8, 0x80#8, 0x80#8] 0#32) = .next t ∧
      t.engine.responses = [r] ∧ (r.extractLsb' 0 2).toNat = 1) ∧
    ∃ t r, exec (.readAt 0#32 0#64) (onBytes [0x80#8, 0x80#8, 0x80#8, 0x80#8, 0x80#8] 0#32) = .next t ∧
      t.engine.responses = [r] ∧ (r.extractLsb' 0 2).toNat = 2 :=
  ⟨⟨_, _, rfl, rfl, by decide⟩, ⟨_, _, rfl, rfl, by decide⟩, ⟨_, _, rfl, rfl, by decide⟩⟩
theorem witness_ResponseFieldsThatCarryNothingAreZero :
    (∃ t r, exec (.load 0#32 0#64) (onBytes [0x6A#8] 0#32) = .next t ∧ t.engine.responses = [r] ∧
      (r.extractLsb' 0 2).toNat = 0) ∧
    (∃ t r, exec (.setCursor 1#32 0#64) (onBytes [] 0#32) = .next t ∧ t.engine.responses = [r] ∧
      (r.extractLsb' 0 2).toNat = 0) ∧
    (∃ t r, exec (.getCursor 1#32 0#64) (onBytes [] 0#32) = .next t ∧ t.engine.responses = [r] ∧
      (r.extractLsb' 0 2).toNat = 0) ∧
    ∃ t r, exec (.load 1#32 0#64) (onBytes [0x6A#8] 0#32) = .next t ∧ t.engine.responses = [r] ∧
      (r.extractLsb' 0 2).toNat ≠ 0 :=
  ⟨⟨_, _, rfl, rfl, by decide⟩, ⟨_, _, rfl, rfl, by decide⟩, ⟨_, _, rfl, rfl, by decide⟩, ⟨_, _, rfl, rfl, by decide⟩⟩
theorem witness_ErrorWritesNoState :
    ∃ t r, exec (.readAdv 0#32 0#64) (onBytes [0x80#8, 0x80#8, 0x80#8, 0x80#8, 0x80#8] 0#32) = .next t ∧
      t.engine.responses = [r] ∧ (r.extractLsb' 0 2).toNat ≠ 0 := ⟨_, _, rfl, rfl, by decide⟩
theorem witness_ErrorRepeats :
    ∃ t r, exec (.peek 0#32 0#64) (onBytes [0x6A#8] 1#32) = .next t ∧ t.engine.responses = [r] ∧
      (r.extractLsb' 0 2).toNat ≠ 0 ∧ t.racing = none ∧ t.engine.cursor = (onBytes [0x6A#8] 1#32).engine.cursor ∧
      t.engine.window = (onBytes [0x6A#8] 1#32).engine.window := ⟨_, _, rfl, rfl, by decide, rfl, rfl, rfl⟩
theorem witness_OnlyLoadedBytesMatter :
    (∀ j : Nat, j < 8 → Memory.read [(0, 0x6A#8), (9, 0x55#8)] ((0#32 : Word).toInt.toNat + j) =
      (win [0x6A#8, 0, 0, 0, 0, 0, 0, 0, 0, 0x44#8]).bytes.read ((0#32 : Word).toInt.toNat + j)) ∧
    loadsFrom (.load 0#32 0#64) (onBytes [0x6A#8, 0, 0, 0, 0, 0, 0, 0, 0, 0x44#8] 0#32) = some 0#32 := by decide
theorem witness_RacingLoadDrawsItsLanes :
    (racingOn [0x01#8, 0x02#8] [0x03#8] 0#32).racing = some (win [0x03#8]) ∧
    OffsetIn 0#32 (racingOn [0x01#8, 0x02#8] [0x03#8] 0#32).engine.window.len ∧ OffsetIn 0#32 (win [0x03#8]).len ∧
    OffsetIn 1#32 (racingOn [0x01#8, 0x02#8] [0x03#8] 0#32).engine.window.len ∧ ¬ OffsetIn 1#32 (win [0x03#8]).len := by
  decide
/-- A host with one action of each kind to do, over two instances. -/
def busy (a : List HostAction) : State :=
  { onBytes [0x6A#8] 0#32 with others := [(onBytes [0x01#8, 0x02#8] 1#32).engine], host := a }

theorem busy_inv (a : List HostAction) : (busy a).Inv := by
  refine ⟨rfl, ?_, ?_⟩ <;> simp only [busy] <;> decide

/-- One instance with an empty window, the host with these actions to do. -/
def idleBut (a : List HostAction) : State :=
  { engine := { cursor := 0#32, window := { len := 0, bytes := [] }, inReset := false, responses := [] }
    others := [], host := a, racing := none, draws := 0 }

theorem witness_StepKeepsInvariant :
    (busy [.presentRacing 0x4#128 3 [(2, 0x11#8), (0, 0x22#8)]]).Inv ∧
    (∃ t, step (busy [.present 0x4#128]) = .next t) ∧ (∃ t, step (busy [.setWindow 3 [(2, 0x11#8)]]) = .next t) ∧
    (∃ t, step (busy [.selectEngine 0]) = .next t) ∧ (∃ t, step (busy [.assertReset]) = .next t) ∧
    ∃ t, step (busy [.presentRacing 0x6#128 3 [(2, 0x11#8), (0, 0x22#8)]]) = .next t :=
  ⟨busy_inv _, ⟨_, rfl⟩, ⟨_, rfl⟩, ⟨_, rfl⟩, ⟨_, rfl⟩, ⟨_, rfl⟩⟩
theorem witness_StepKeepsWindowsWithinMaxSrcLen :
    (idleBut [.setWindow 0 []]).WindowsFit ∧ ∃ t, step (idleBut [.setWindow 0 []]) = .next t := by
  refine ⟨⟨Nat.zero_le _, by simp [idleBut], fun a ha => ?_⟩, _, rfl⟩
  rcases List.mem_singleton.1 ha with rfl
  exact Nat.zero_le _
theorem witness_StepRunsDecodedRequest :
    (busy [.present 0x4#128, .assertReset]).host = .present 0x4#128 :: [.assertReset] ∧
    (busy [.present 0x4#128, .assertReset]).racing = none ∧
    (busy [.present 0x4#128, .assertReset]).engine.inReset = false := ⟨rfl, rfl, rfl⟩
theorem witness_RacingStepRunsRequestThenChangesWindow :
    (busy [.presentRacing 0x4#128 (2 ^ 31 - 1) []]).host = .presentRacing 0x4#128 (2 ^ 31 - 1) [] :: [] ∧
    (busy [.presentRacing 0x4#128 (2 ^ 31 - 1) []]).engine.inReset = false := ⟨rfl, rfl⟩
theorem witness_FetchWordRunsNext : State.reset.racing = none ∧ 2 ^ 128 - 1 < 2 ^ 128 := ⟨rfl, by decide⟩
theorem witness_SetWindowPutsItsBytes :
    (busy [.setWindow 2 [(1, 0x11#8), (1, 0x22#8)]]).host = .setWindow 2 [(1, 0x11#8), (1, 0x22#8)] :: [] ∧
    1 < 2 ∧ 2 ≤ 2 ∧ 2 ≤ 2 ^ 31 - 1 := ⟨rfl, by decide, by decide, by decide⟩
theorem witness_ResetHoldsOffRequests :
    (busy [.assertReset]).host = [.assertReset] ∧
    (busy [.releaseReset, .present 0x4#128]).host = .releaseReset :: .present 0x4#128 :: [] ∧
    (busy [.presentRacing 0x4#128 (2 ^ 31 - 1) []]).host = .presentRacing 0x4#128 (2 ^ 31 - 1) [] :: [] ∧
    ({ busy [.present 0x4#128] with engine := { (busy []).engine with inReset := true } } : State).engine.inReset =
      true := ⟨rfl, rfl, rfl, rfl⟩
theorem witness_InstancesAreIsolated :
    (∃ t, step (busy [.present 0x4#128]) = .next t) ∧
    ∀ k rest, (busy [.present 0x4#128]).host ≠ .selectEngine k :: rest := ⟨⟨_, rfl⟩, by simp [busy]⟩
theorem witness_SelectEngineKeepsEveryInstance :
    (busy [.selectEngine 0, .selectEngine 0]).host = .selectEngine 0 :: .selectEngine 0 :: [] ∧
    0 < (busy [.selectEngine 0, .selectEngine 0]).others.length := ⟨rfl, by decide⟩
theorem witness_StepFaultsOnlyInReset :
    step { busy [.present 0x4#128] with engine := { (busy []).engine with inReset := true } } =
      .fault .requestDuringReset := rfl
theorem witness_DutifulHostNeverStopsMachine :
    (busy [.assertReset, .selectEngine 0, .present 0x4#128, .selectEngine 0, .releaseReset, .setWindow 1 [],
      .present 0x4#128]).dutiful = true := by decide
theorem witness_MemoryWriteThenRead :
    Memory.wf [(0, 0x11#8), (5, 0x22#8)] ∧ Memory.wf (Memory.write [(0, 0x11#8), (5, 0x22#8)] 5 0x00#8) := by decide

end Sys2Proof.Tests
end

section
/-!
What one step can do: what every request leaves unchanged, one rule per host action, and what a host action does to the
windows of all instances (00_scope.md R8, R15; 20_memory.md R200, R213, R214; 60_exceptions.md R714).
-/

namespace Sys2Proof.Machine

/-- A request leaves the window on its port, the reset condition, the other instances, the host's actions and the host's
pending change as they are (R205, R706, R714). -/
theorem exec_frame {i : Instr} {s t : State} (h : exec i s = .next t) :
    t.engine.window = s.engine.window ∧ t.engine.inReset = s.engine.inReset ∧ t.others = s.others ∧
      t.host = s.host ∧ t.racing = s.racing := by
  obtain ⟨r, c, u, hexec, hu, -⟩ := exec_shape i s
  obtain rfl : (u.answered r).atCursor c = t := Host.Outcome.next.inj (hexec.symm.trans h)
  rcases hu with rfl | rfl <;> simp

/-! ### One rule per host action -/

/-- Where no change is pending, leaving the window alone changes nothing. -/
theorem State.setRacing_none_of_still {s : State} (h : s.racing = none) : s.setRacing none = s := by
  rw [← h]; rfl

/-- A request presented to an instance out of reset is run (R300, R308). -/
theorem present_of_released {req : ReqWord} {s : State} (h : s.engine.inReset = false) :
    present req s = exec (decodeReq req) (s.setRacing none) := by
  simp [present, h]

/-- A presented request that gets a next state was run. -/
theorem present_eq_next {req : ReqWord} {s t : State} (h : present req s = .next t) :
    s.engine.inReset = false ∧ exec (decodeReq req) (s.setRacing none) = .next t := by
  cases hr : s.engine.inReset with
  | true => simp [present, hr] at h
  | false => exact ⟨rfl, present_of_released hr ▸ h⟩

/-- Settling after a request that got a next state: the new window is in place and the request is over. -/
theorem settle_eq_next {w : Window} {o : StepOutcome} {t : State} (h : settle w o = .next t) :
    ∃ u, o = .next u ∧ t = (u.setWindow w).setRacing none := by
  cases o with
  | next u => exact ⟨u, rfl, (Host.Outcome.next.inj h).symm⟩
  | fault f => cases h
  | refused r => cases h

/-- A request during which the host changes the window, and which gets a next state, was run with that change pending;
the new window is in place afterwards (R214). -/
theorem presentRacing_eq_next {req : ReqWord} {len : Nat} {cells : List Host.Cell} {s t : State}
    (h : presentRacing req len cells s = .next t) :
    ∃ w u, Window.ofCells len cells = some w ∧ s.engine.inReset = false ∧
      exec (decodeReq req) (s.setRacing (some w)) = .next u ∧ t = (u.setWindow w).setRacing none := by
  unfold presentRacing at h
  split at h
  · cases h
  · next w hw =>
    cases hr : s.engine.inReset with
    | true => simp [hr] at h
    | false =>
      simp only [hr, Bool.false_eq_true, if_false] at h
      obtain ⟨u, hu, ht⟩ := settle_eq_next h
      exact ⟨w, u, hw, rfl, hu, ht⟩

/-- A change of the window between requests that gets a next state puts the window of those cells in place (R213). -/
theorem setWindow_eq_next {len : Nat} {cells : List Host.Cell} {s t : State} (h : setWindow len cells s = .next t) :
    ∃ w, Window.ofCells len cells = some w ∧ t = s.setWindow w := by
  unfold setWindow at h
  split at h
  · cases h
  · next w hw => exact ⟨w, hw, (Host.Outcome.next.inj h).symm⟩

/-- Turning to another instance swaps it with the one in front (R714). -/
theorem selectEngine_eq_next {k : Nat} {s t : State} (h : selectEngine k s = .next t) :
    ∃ e, s.others[k]? = some e ∧ t = { s with engine := e, others := s.others.set k s.engine } := by
  unfold selectEngine at h
  split at h
  · cases h
  · next e he => exact ⟨e, he, (Host.Outcome.next.inj h).symm⟩

/-- No host action touches the actions that remain after it. -/
theorem hostAct_host {a : HostAction} {s t : State} (h : hostAct a s = .next t) : t.host = s.host := by
  cases a with
  | present req =>
    obtain ⟨-, hexec⟩ := present_eq_next h
    obtain ⟨-, -, -, hhost, -⟩ := exec_frame hexec
    exact hhost
  | presentRacing req len cells =>
    obtain ⟨w, u, -, -, hexec, rfl⟩ := presentRacing_eq_next h
    obtain ⟨-, -, -, hhost, -⟩ := exec_frame hexec
    exact hhost
  | setWindow len cells =>
    obtain ⟨w, -, rfl⟩ := setWindow_eq_next h
    rfl
  | selectEngine k =>
    obtain ⟨e, -, rfl⟩ := selectEngine_eq_next h
    rfl
  | assertReset => cases h; rfl
  | releaseReset => cases h; rfl

/-! ### The windows of all instances -/

/-- Every instance's window has the property `P`. -/
def State.AllWindows (P : Window → Prop) (s : State) : Prop :=
  P s.engine.window ∧ ∀ e ∈ s.others, P e.window

/-- The window a host action puts in place, if it puts one in place (R213, R214). -/
def HostAction.newWindow : HostAction → Option Window
  | .presentRacing _ len cells => Window.ofCells len cells
  | .setWindow len cells => Window.ofCells len cells
  | .present _ => none
  | .selectEngine _ => none
  | .assertReset => none
  | .releaseReset => none

/-- A host action keeps any property of all the windows that the window it puts in place has: no request writes a window
(R205), and turning to another instance only swaps two (R714). -/
theorem hostAct_allWindows {P : Window → Prop} {a : HostAction} {s t : State} (h : hostAct a s = .next t)
    (hnew : ∀ w, a.newWindow = some w → P w) (hs : s.AllWindows P) : t.AllWindows P := by
  obtain ⟨hfront, hothers⟩ := hs
  cases a with
  | present req =>
    obtain ⟨-, hexec⟩ := present_eq_next h
    obtain ⟨hw, -, ho, -, -⟩ := exec_frame hexec
    exact ⟨hw ▸ hfront, ho ▸ hothers⟩
  | presentRacing req len cells =>
    obtain ⟨w, u, hw, -, hexec, rfl⟩ := presentRacing_eq_next h
    obtain ⟨-, -, ho, -, -⟩ := exec_frame hexec
    exact ⟨hnew w hw, ho ▸ hothers⟩
  | setWindow len cells =>
    obtain ⟨w, hw, rfl⟩ := setWindow_eq_next h
    exact ⟨hnew w hw, hothers⟩
  | selectEngine k =>
    obtain ⟨e, he, rfl⟩ := selectEngine_eq_next h
    refine ⟨hothers e (List.mem_of_getElem? he), fun d hd => ?_⟩
    rcases List.mem_or_eq_of_mem_set hd with hd | rfl
    · exact hothers d hd
    · exact hfront
  | assertReset => cases h; exact ⟨hfront, hothers⟩
  | releaseReset => cases h; exact ⟨hfront, hothers⟩

/-- The window a fitting host action puts in place is no longer than `MAX_SRC_LEN` (R8, R200). -/
theorem HostAction.newWindow_len_le {a : HostAction} {w : Window} (ha : a.fits) (h : a.newWindow = some w) :
    w.len ≤ Config.maxSrcLen.val := by
  cases a with
  | presentRacing req len cells => exact (Window.ofCells_wf h).2.trans_le ha
  | setWindow len cells => exact (Window.ofCells_wf h).2.trans_le ha
  | present req => cases h
  | selectEngine k => cases h
  | assertReset => cases h
  | releaseReset => cases h

/-! ### The step -/

/-- With no action left the engine is idle (R716). -/
theorem step_of_host_nil {s : State} (h : s.host = []) : step s = .next s := by
  simp [step, h]

/-- A step performs the host's next action (R15). -/
theorem step_of_host_cons {s : State} {a : HostAction} {rest : List HostAction} (h : s.host = a :: rest) :
    step s = hostAct a { s with host := rest } := by
  simp [step, h]

/-- A whole request word is its own table word: a request has 128 bits (R310). -/
theorem tableReq_full (w : Nat) : tableReq 128 w = BitVec.ofNat 128 w :=
  BitVec.eq_of_toNat_eq (by simp [tableReq])

/-- Settles O50: the host's actions after the step are among those before it, and the step's action puts a fitting window
in place or none. -/
theorem stepKeepsWindowsWithinMaxSrcLen : Obligations.StepKeepsWindowsWithinMaxSrcLen := by
  intro s t hfit hstep
  cases hhost : s.host with
  | nil =>
    rw [step_of_host_nil hhost] at hstep
    cases hstep
    exact ⟨hfit, hhost⟩
  | cons a rest =>
    rw [step_of_host_cons hhost] at hstep
    obtain ⟨hfront, hothers, hacts⟩ := hfit
    rw [hhost, List.forall_mem_cons] at hacts
    obtain ⟨ha, hrest⟩ := hacts
    have hremain : t.host = rest := hostAct_host hstep
    obtain ⟨hfront', hothers'⟩ : t.AllWindows (·.len ≤ Config.maxSrcLen.val) :=
      hostAct_allWindows hstep (fun _ => HostAction.newWindow_len_le ha) ⟨hfront, hothers⟩
    exact ⟨⟨hfront', hothers', hremain ▸ hrest⟩, hremain⟩

/-- Settles O51: the step performs the presented request, and no change is pending that presenting it would clear. -/
theorem stepRunsDecodedRequest : Obligations.StepRunsDecodedRequest := by
  intro s req rest hhost hstill hrel
  calc step s = present req { s with host := rest } := step_of_host_cons hhost
    _ = exec (decodeReq req) (({ s with host := rest } : State).setRacing none) := present_of_released hrel
    _ = exec (decodeReq req) { s with host := rest } :=
      congrArg (exec _) (State.setRacing_none_of_still hstill)

/-- Settles O53: an instance of O51, the word placed being all 128 bits of `w`. -/
theorem fetchWordRunsNext : Obligations.FetchWordRunsNext := by
  intro s w hstill _
  rw [← tableReq_full]
  exact stepRunsDecodedRequest (s.withFetchWord 128 w) (tableReq 128 w) s.host rfl hstill rfl

end Sys2Proof.Machine
end

section
/-!
PROOFS. The two ROM tables (10_state.md R102, R104): what each of their entries is.
-/

namespace Sys2Proof.Machine

/-- Lane i shifts past the seven payload bits of each lane before it (R102). -/
theorem shiftLut_toNat (i : Fin 5) : (shiftLut[i]).toNat = 7 * i.val := by
  fin_cases i <;> rfl

/-- Mask i selects lanes 0..i inclusive (R104). -/
theorem maskTable_getLsbD (i : Fin 5) (j : Fin 8) :
    (maskTable[i]).getLsbD j.val = decide (j.val ≤ i.val) := by
  fin_cases i <;> revert j <;> decide

/-- Settles O7, entry by entry: the shifts and the lanes each mask selects. -/
theorem romTableEntries : Obligations.RomTableEntries :=
  ⟨shiftLut_toNat, maskTable_getLsbD⟩

end Sys2Proof.Machine
end

section
/-!
PROOFS. What every step keeps: no request in progress between steps, and every instance's window one the spec allows
(20_memory.md R200; 70_reset_and_hazards.md R800).
-/

namespace Sys2Proof.Machine

/-- The invariant in terms of the windows of all instances. -/
theorem State.inv_iff (s : State) : s.Inv ↔ s.racing = none ∧ s.AllWindows Window.wf := Iff.rfl

/-- After any host action no request is in progress, if none was before it. -/
theorem hostAct_racing_none {a : HostAction} {s t : State} (h : hostAct a s = .next t) (hs : s.racing = none) :
    t.racing = none := by
  cases a with
  | present req =>
    obtain ⟨-, hexec⟩ := present_eq_next h
    obtain ⟨-, -, -, -, hrace⟩ := exec_frame hexec
    exact hrace
  | presentRacing req len cells =>
    obtain ⟨w, u, -, -, -, rfl⟩ := presentRacing_eq_next h
    rfl
  | setWindow len cells =>
    obtain ⟨w, -, rfl⟩ := setWindow_eq_next h
    exact hs
  | selectEngine k =>
    obtain ⟨e, -, rfl⟩ := selectEngine_eq_next h
    exact hs
  | assertReset => cases h; exact hs
  | releaseReset => cases h; exact hs

/-- The window a host action puts in place is one the spec allows (R200). -/
theorem HostAction.newWindow_wf {a : HostAction} {w : Window} (h : a.newWindow = some w) : w.wf := by
  cases a with
  | presentRacing req len cells => exact (Window.ofCells_wf h).1
  | setWindow len cells => exact (Window.ofCells_wf h).1
  | present req => cases h
  | selectEngine k => cases h
  | assertReset => cases h
  | releaseReset => cases h

/-- Settles O49: an idle step changes nothing, and a host action leaves no request in progress and puts only allowed
windows in place. -/
theorem stepKeepsInvariant : Obligations.StepKeepsInvariant := by
  intro s t hinv hstep
  cases hhost : s.host with
  | nil =>
    rw [step_of_host_nil hhost] at hstep
    cases hstep
    exact hinv
  | cons a rest =>
    rw [step_of_host_cons hhost] at hstep
    obtain ⟨hrace, hwins⟩ := s.inv_iff.1 hinv
    exact t.inv_iff.2 ⟨hostAct_racing_none hstep hrace,
      hostAct_allWindows hstep (fun _ => HostAction.newWindow_wf) hwins⟩

end Sys2Proof.Machine
end

section
/-!
PROOFS. The bytes of a window (20_memory.md R200, R203, R213): memories in canonical form are determined by what they read
as, and a window the host puts in place reads as its cells.
-/

namespace Sys2Proof.Machine

/-- The canonical form of a non-empty memory: its first cell lies below the rest and is not unlisted. -/
theorem Memory.wf_cons {c : Host.Cell} {m : Memory} :
    Memory.wf (c :: m) ↔ (∀ d ∈ m, c.1 < d.1) ∧ c.2 ≠ Memory.unlisted ∧ m.wf := by
  simp only [Memory.wf, List.pairwise_cons, List.forall_mem_cons]
  tauto

/-- The address of the first cell reads as that cell's byte. -/
@[simp] theorem Memory.read_cons_self (c : Host.Cell) (m : Memory) : Memory.read (c :: m) c.1 = c.2 := by
  simp [Memory.read]

/-- Every address but the first cell's reads as in the rest. -/
theorem Memory.read_cons_of_ne {c : Host.Cell} {a : Nat} (m : Memory) (h : a ≠ c.1) :
    Memory.read (c :: m) a = Memory.read m a := by
  simp [Memory.read, h]

/-- Of two memories in canonical form that read alike, neither lists an address below all those of the other. -/
theorem Memory.not_below_of_read_eq {c : Host.Cell} {m m' : Memory} (hc : c.2 ≠ Memory.unlisted)
    (hread : ∀ a, Memory.read (c :: m) a = Memory.read m' a) : ¬ ∀ d ∈ m', c.1 < d.1 := by
  intro hbelow
  apply hc
  calc c.2 = Memory.read (c :: m) c.1 := (Memory.read_cons_self c m).symm
    _ = Memory.read m' c.1 := hread c.1
    _ = Memory.unlisted := Memory.read_below hbelow

/-- Memories in canonical form that read alike are equal (log 6). -/
theorem Memory.eq_of_read_eq {m m' : Memory} (h : m.wf) (h' : m'.wf) (hread : ∀ a, m.read a = m'.read a) :
    m = m' := by
  induction m generalizing m' with
  | nil =>
    cases m' with
    | nil => rfl
    | cons c' r' =>
      obtain ⟨-, hc', -⟩ := Memory.wf_cons.1 h'
      exact absurd (by simp) (Memory.not_below_of_read_eq hc' fun a => (hread a).symm)
  | cons c r ih =>
    obtain ⟨hlow, hc, hr⟩ := Memory.wf_cons.1 h
    cases m' with
    | nil => exact absurd (by simp) (Memory.not_below_of_read_eq hc hread)
    | cons c' r' =>
      obtain ⟨hlow', hc', hr'⟩ := Memory.wf_cons.1 h'
      have hkey : c.1 = c'.1 := by
        rcases Nat.lt_trichotomy c.1 c'.1 with hlt | heq | hgt
        · exact (Memory.not_below_of_read_eq hc hread
            (List.forall_mem_cons.2 ⟨hlt, fun d hd => hlt.trans (hlow' d hd)⟩)).elim
        · exact heq
        · exact (Memory.not_below_of_read_eq hc' (fun a => (hread a).symm)
            (List.forall_mem_cons.2 ⟨hgt, fun d hd => hgt.trans (hlow d hd)⟩)).elim
      have hbyte : c.2 = c'.2 := by
        have hat := hread c.1
        rwa [Memory.read_cons_self, hkey, Memory.read_cons_self] at hat
      have hrest : r = r' := ih hr hr' fun a => by
        by_cases ha : a = c.1
        · subst ha
          rw [Memory.read_below hlow, Memory.read_below (hkey ▸ hlow')]
        · rw [← Memory.read_cons_of_ne r ha, hread a, Memory.read_cons_of_ne r' (hkey ▸ ha)]
      rw [Prod.ext hkey hbyte, hrest]

/-- Settles O60: the laws of `Memory.write`, and extensionality by induction along the two lists. -/
theorem memoryWriteThenRead : Obligations.MemoryWriteThenRead :=
  ⟨fun m a b v h => ⟨Memory.write_wf a v h, Memory.read_write m a b v h⟩, fun _ _ => Memory.eq_of_read_eq⟩

/-! ### The window a host puts in place -/

/-- A read inside a window (R203). -/
theorem Window.read?_of_lt {w : Window} {a : Nat} (h : a < w.len) : w.read? a = some (w.bytes.read a) :=
  if_pos h

/-- A read outside a window gives no byte (R203). -/
theorem Window.read?_of_ge {w : Window} {a : Nat} (h : w.len ≤ a) : w.read? a = none :=
  if_neg (Nat.not_lt.2 h)

/-- An index inside the window, after a cell is put in it: the cell's byte at its address, every other byte as before. -/
theorem Window.putCell_read {w : Window} {a : Nat} (c : Host.Cell) (hw : w.wf) (ha : a < w.len) :
    (w.putCell c).bytes.read a = if c.1 == a then c.2 else w.bytes.read a := by
  obtain ⟨-, hb, -⟩ := hw
  unfold Window.putCell
  split
  · simp only [Memory.read_write w.bytes c.1 a c.2 hb, beq_iff_eq, eq_comm (a := a)]
  · next hc => simp [show c.1 ≠ a by omega]

/-- An index inside the window, after cells are put in it one after the other: the last cell for it, else the byte that was
there. -/
theorem Window.foldl_putCell_read {a : Nat} (cells : List Host.Cell) (w : Window) (hw : w.wf) (ha : a < w.len) :
    (cells.foldl Window.putCell w).bytes.read a =
      ((cells.reverse.find? (fun c => c.1 == a)).map (fun c => c.2)).getD (w.bytes.read a) := by
  induction cells generalizing w with
  | nil => rfl
  | cons c cs ih =>
    rw [List.foldl_cons, ih _ (Window.putCell_wf c hw) (by simpa using ha), Window.putCell_read c hw ha,
      List.reverse_cons, List.find?_append]
    cases cs.reverse.find? (fun c => c.1 == a) with
    | some d => rfl
    | none => by_cases hc : c.1 == a <;> simp [hc]

/-- The window a host puts in place has the length and the cells it gave, 0x00 where it gave none (R213, log 6). -/
theorem Window.ofCells_read? {len a : Nat} {cells : List Host.Cell} {w : Window}
    (h : Window.ofCells len cells = some w) (ha : a < len) :
    w.read? a = some (((cells.reverse.find? (fun c => c.1 == a)).map (fun c => c.2)).getD 0x00#8) := by
  rw [Window.read?_of_lt ((Window.ofCells_wf h).2 ▸ ha)]
  unfold Window.ofCells at h
  split at h
  · next hlen =>
    cases h
    exact congrArg some (Window.foldl_putCell_read cells _ ⟨hlen, by simp [Memory.wf], by simp⟩ ha)
  · cases h

/-- Settles O54: the action puts the window of its cells in place. -/
theorem setWindowPutsItsBytes : Obligations.SetWindowPutsItsBytes := by
  intro s len cells rest hhost hlen
  obtain ⟨w, hw⟩ := Window.ofCells_isSome cells hlen
  have hwlen : w.len = len := (Window.ofCells_wf hw).2
  refine ⟨w, ?_, hwlen, fun a => Window.ofCells_read? hw, fun a ha => Window.read?_of_ge (hwlen ▸ ha)⟩
  rw [step_of_host_cons hhost]
  simp only [hostAct, setWindow, hw]
  rfl

/-- A request presented out of reset to a host that changes the window to `w` meanwhile runs with that change pending,
and the new window is in place afterwards (R214). -/
theorem presentRacing_of_released {req : ReqWord} {len : Nat} {cells : List Host.Cell} {s : State} {w : Window}
    (hw : Window.ofCells len cells = some w) (h : s.engine.inReset = false) :
    presentRacing req len cells s = settle w (exec (decodeReq req) (s.setRacing (some w))) := by
  simp [presentRacing, hw, h]

/-- Every request answers a next state with exactly one response more (R807). -/
theorem exec_answers (i : Instr) (s : State) :
    ∃ t r, exec i s = .next t ∧ t.engine.responses = r :: s.engine.responses := by
  obtain ⟨r, c, u, hexec, hu, -⟩ := exec_shape i s
  refine ⟨_, r, hexec, ?_⟩
  rcases hu with rfl | rfl <;> simp

/-- Settles O52: the request runs with the change pending, then the window of the cells is in place. -/
theorem racingStepRunsRequestThenChangesWindow : Obligations.RacingStepRunsRequestThenChangesWindow := by
  intro s req len cells rest hhost hrel hlen
  obtain ⟨w, hw⟩ := Window.ofCells_isSome cells hlen
  obtain ⟨t, r, hexec, hresp⟩ := exec_answers (decodeReq req) { s with host := rest, racing := some w }
  refine ⟨w, t, r, hexec, hresp, ?_, (Window.ofCells_wf hw).2, fun a => Window.ofCells_read? hw⟩
  calc step s = presentRacing req len cells { s with host := rest } := step_of_host_cons hhost
    _ = settle w (exec (decodeReq req) { s with host := rest, racing := some w }) :=
      presentRacing_of_released hw hrel
    _ = .next { t.onWindow w with racing := none } := by rw [hexec]; rfl

end Sys2Proof.Machine
end

section
/-!
PROOFS. What a request can see of the window and what it leaves unchanged (20_memory.md R203, R205, R206, R214;
40_decode_engine.md R414; 60_exceptions.md R706, R714; 42_cursor_access.md R602).
-/

namespace Sys2Proof.Machine

/-- No free value is drawn by a request during which the host leaves the window alone (log 8). -/
theorem exec_draws {i : Instr} {s t : State} (hstill : s.racing = none) (h : exec i s = .next t) :
    t.draws = s.draws := by
  obtain ⟨r, c, u, hexec, hu, -⟩ := exec_shape i s
  obtain rfl : (u.answered r).atCursor c = t := Host.Outcome.next.inj (hexec.symm.trans h)
  rcases hu with rfl | rfl <;> simp [State.countDraws_of_still _ hstill]

/-- Only `SET_CURSOR` and `READ_ADV` write the cursor (R602). -/
theorem exec_cursor {i : Instr} {s t : State} (h : exec i s = .next t) (hset : ∀ o l, i ≠ .setCursor o l)
    (hadv : ∀ o l, i ≠ .readAdv o l) : t.engine.cursor = s.engine.cursor := by
  obtain ⟨r, c, u, hexec, -, hc⟩ := exec_shape i s
  obtain rfl : (u.answered r).atCursor c = t := Host.Outcome.next.inj (hexec.symm.trans h)
  rcases hc with hc | ⟨l, hi⟩ | ⟨o, l, -, -, -, hi, -⟩
  · exact hc
  · exact absurd hi (hset c l)
  · exact absurd hi (hadv o l)

/-- Settles O39: the frame of a request, its draws and its cursor. -/
theorem requestFrame : Obligations.RequestFrame := by
  intro i s t h
  obtain ⟨hwin, hreset, hothers, hhost, hrace⟩ := exec_frame h
  exact ⟨fun a => congrArg (Window.read? · a) hwin, hwin, hreset, hothers, hhost, hrace,
    fun hstill => exec_draws hstill h, exec_cursor h⟩

/-! ### Other bytes in the window -/

/-- A load sees no byte of the window but those at its eight indices (R206, R207). -/
theorem laneFrom_congr {w w' : Window} {off : Word} {j : Nat} (hlen : w'.len = w.len)
    (h : w'.bytes.read (off.toInt.toNat + j) = w.bytes.read (off.toInt.toNat + j)) :
    laneFrom w' off j = laneFrom w off j := by
  simp only [laneFrom, windowLane, hlen, h]

section OtherBytes
variable {s t : State} {w : Window}

/-- Completing a decode does not see the window. -/
theorem completeDecode_onWindow {r : DecodeResult} {lv : LaneWord} (h : completeDecode r lv s = .next t) :
    completeDecode r lv (s.onWindow w) = .next (t.onWindow w) := by
  cases r with
  | malformed => cases h; rfl
  | ok v last => cases h; rfl

/-- Completing an advancing decode does not see the window. -/
theorem completeAdvance_onWindow {r : DecodeResult} {lv : LaneWord} (h : completeAdvance r lv s = .next t) :
    completeAdvance r lv (s.onWindow w) = .next (t.onWindow w) := by
  cases r with
  | malformed => cases h; rfl
  | ok v last => cases h; rfl

/-- A request that loads, over a window that agrees with `s`'s in its length and the bytes loaded, gives the same next state
but for the window, if what it goes on with does. -/
theorem withLoaded_onWindow {off : Word} {k : Nat → Lanes → State → StepOutcome} (hstill : s.racing = none)
    (hlen : w.len = s.engine.window.len)
    (hlane : ∀ j : Nat, j < 8 → laneFrom w off j = laneFrom s.engine.window off j)
    (hk : ∀ n L, k n L s = .next t → k n L (s.onWindow w) = .next (t.onWindow w))
    (h : withLoaded off s k = .next t) : withLoaded off (s.onWindow w) k = .next (t.onWindow w) := by
  by_cases hin : OffsetIn off s.engine.window.len
  · rw [withLoaded_of_in k hstill hin] at h
    have hlanes : (fun i : Fin 8 => laneFrom w off i.val) = fun i => laneFrom s.engine.window off i.val :=
      funext fun i => hlane i.val i.isLt
    calc withLoaded off (s.onWindow w) k
        = k (laneCount off w.len) (fun i => laneFrom w off i.val) (s.onWindow w) :=
          withLoaded_of_in k hstill (hlen ▸ hin)
      _ = k (laneCount off s.engine.window.len) (fun i => laneFrom s.engine.window off i.val) (s.onWindow w) := by
          rw [hlen, hlanes]
      _ = .next (t.onWindow w) := hk _ _ h
  · rw [withLoaded_of_out k hin] at h
    cases h
    exact withLoaded_of_out k (hlen ▸ hin)

end OtherBytes

/-- Settles O45: a request that loads sees the bytes at its eight indices and the length, every other request sees no
window. -/
theorem onlyLoadedBytesMatter : Obligations.OnlyLoadedBytesMatter := by
  intro i s t m hstill hagree h
  have loading : ∀ off k, loadsFrom i s = some off →
      (∀ n L, k n L s = .next t → k n L (s.onWindow ⟨s.engine.window.len, m⟩) =
        .next (t.onWindow ⟨s.engine.window.len, m⟩)) →
      withLoaded off s k = .next t →
      withLoaded off (s.onWindow ⟨s.engine.window.len, m⟩) k = .next (t.onWindow ⟨s.engine.window.len, m⟩) :=
    fun off k hoff => withLoaded_onWindow hstill rfl fun j hj => laneFrom_congr rfl (hagree off hoff j hj)
  cases i with
  | decode o l => exact completeDecode_onWindow h
  | load o l =>
    rw [exec_load] at h ⊢
    exact loading o _ rfl (fun n L hk => by cases hk; rfl) h
  | readAt o l =>
    rw [exec_readAt] at h ⊢
    exact loading o _ rfl (fun n L => completeDecode_onWindow) h
  | peek o l =>
    rw [exec_peek] at h ⊢
    exact loading _ _ rfl (fun n L => completeDecode_onWindow) h
  | readAdv o l =>
    rw [exec_readAdv] at h ⊢
    exact loading _ _ rfl (fun n L => completeAdvance_onWindow) h
  | setCursor o l => cases h; rfl
  | getCursor o l => cases h; rfl
  | illegal c o l => cases h; rfl

/-! ### A load whose window the host changes meanwhile -/

/-- A load in range whose window the host changes meanwhile counts nine draws (log 8). -/
theorem State.countDraws_of_racing {s : State} {w : Window} (h : s.racing = some w) :
    s.countDraws = { s with draws := s.draws + 9 } := by
  simp [State.countDraws, h]

/-- The fields of the response of a `LOAD` that succeeded (R501, R303). -/
theorem loadRsp_fields (L : Nat → Byte) :
    RspIs (packRsp .ok 0#32 0#3 0#3 (packLanes fun i => L i.val)) 0 0 0 0#32 L := by
  obtain ⟨hstatus, hlast, hconsumed, hrsv, hvalue, hlanes⟩ :=
    packRsp_fields .ok 0#32 0#3 0#3 (packLanes fun i => L i.val)
  exact ⟨hstatus, hlast, hconsumed, hrsv, hvalue,
    fun i hi => (hlanes i hi).trans (packLanes_lane (fun i => L i.val) ⟨i, hi⟩)⟩

/-- Settles O46: the number of lanes is the one `State.lanesFilled` draws. -/
theorem racingLoadDrawsItsLanes : Obligations.RacingLoadDrawsItsLanes := by
  intro s off lv w hrace hin
  obtain ⟨hle, hn⟩ := lanesFilled_of_racing hrace off
  refine ⟨s.lanesFilled off, _, ?_, hle, hn, loadRsp_fields _⟩
  rw [exec_load, withLoaded_of_racing _ hrace hin, State.countDraws_of_racing hrace]
  rfl

end Sys2Proof.Machine
end

section
/-!
PROOFS. `Decode` in closed form (40_decode_engine.md R402, R408, R409): on the first eight bytes of a sequence it answers
the value and length of the varint that ends within five bytes, and `MalformedVarint` where there is none.
-/

namespace Sys2Proof.Machine

/-- A byte's continuation bit is its bit 7 (R401). -/
theorem continues_iff (b : Byte) : b.getLsbD 7 = true ↔ 128 ≤ b.toNat := by
  rw [show b.getLsbD 7 = b.msb from (BitVec.msb_eq_getLsbD_last b).symm, BitVec.msb_eq_decide]
  exact decide_eq_true_iff

/-- A byte ends a varint if its continuation bit is clear (R402). -/
theorem terminates_iff (b : Byte) : b.getLsbD 7 = false ↔ b.toNat < 128 := by
  rw [← Bool.not_eq_true, continues_iff, Nat.not_le]

/-- A shifted lane as a number: its seven payload bits times `2^(7 i)` (R404 to R406). -/
theorem shiftedLane_eq_ofNat (f : Nat → Byte) (i : Fin 5) :
    shiftedLane (fun j => f j.val) i = BitVec.ofNat 32 ((f i.val).toNat % 128 * 2 ^ (7 * i.val)) := by
  apply BitVec.eq_of_toNat_eq
  have hpayload : (f i.val).toNat &&& 127 = (f i.val).toNat % 128 := Nat.and_two_pow_sub_one_eq_mod _ 7
  have hwiden : (f i.val).toNat % 4294967296 = (f i.val).toNat := Nat.mod_eq_of_lt (by omega)
  simp only [shiftedLane, shiftLanes, widenLanes, stripLanes, shiftLut_toNat]
  simp [Nat.shiftLeft_eq, hwiden, hpayload]

/-- The payloads of bytes `0..k` together take up `7 (k + 1)` bits. -/
theorem payloads_lt (f : Nat → Byte) (k : Nat) :
    ∑ i ∈ Finset.range (k + 1), (f i).toNat % 128 * 2 ^ (7 * i) < 2 ^ (7 * (k + 1)) := by
  induction k with
  | zero => simp; omega
  | succ k ih =>
    rw [Finset.sum_range_succ, show 7 * (k + 1 + 1) = 7 * (k + 1) + 7 by ring, Nat.pow_add]
    have := Nat.mul_le_mul_right (2 ^ (7 * (k + 1))) (show (f (k + 1)).toNat % 128 ≤ 127 by omega)
    omega

/-- The closed form of a longer varint is the sum of that of the shorter one and the next payload. -/
theorem varintValue_succ (f : Nat → Byte) (k : Nat) : varintValue f (k + 1) =
    varintValue f k + BitVec.ofNat 32 ((f (k + 1)).toNat % 128 * 2 ^ (7 * (k + 1))) := by
  simp only [varintValue, Finset.sum_range_succ _ (k + 1), BitVec.ofNat_add]

/-- A payload of zero adds nothing to the value (R207). -/
theorem varintValue_succ_of_zero {f : Nat → Byte} {k : Nat} (h : f (k + 1) = 0x00#8) :
    varintValue f (k + 1) = varintValue f k := by
  simp [varintValue_succ, h]

/-- The reduction adds one lane at a time: the OR is a sum, the lanes having no bit in common (R407, R409). -/
theorem varintValue_or_shiftedLane (f : Nat → Byte) {k : Nat} (hk : k + 1 < 5) :
    varintValue f k ||| shiftedLane (fun j => f j.val) ⟨k + 1, hk⟩ = varintValue f (k + 1) := by
  rw [varintValue_succ, ← shiftedLane_eq_ofNat f ⟨k + 1, hk⟩]
  refine (BitVec.add_eq_or_of_and_eq_zero _ _ ?_).symm
  apply BitVec.eq_of_getLsbD_eq
  intro b hb
  rw [BitVec.getLsbD_and, shiftedLane_getLsbD _ _ b hb]
  by_cases hlow : 7 * (k + 1) ≤ b
  · have hzero : (varintValue f k).getLsbD b = false := by
      rw [varintValue, BitVec.getLsbD_ofNat, Nat.testBit_lt_two_pow
        ((payloads_lt f k).trans_le (Nat.pow_le_pow_right two_pos hlow)), Bool.and_false]
    simp [hzero]
  · simp [hlow]

/-- The closed form of a one-byte varint is its lane (R409). -/
theorem varintValue_zero (f : Nat → Byte) : varintValue f 0 = shiftedLane (fun j => f j.val) 0 := by
  simp [varintValue, shiftedLane_eq_ofNat f 0]

/-- Everything `Decode` can answer, in closed form (R402, R408, R409). -/
theorem decodeLanes_closedForm (f : Nat → Byte) :
    (∃ k : Fin 5, TerminatesAt f k.val ∧ decodeLanes (fun i => f i.val) = .ok (varintValue f k.val) k) ∨
    ((∀ j < 5, 128 ≤ (f j).toNat) ∧ decodeLanes (fun i => f i.val) = .malformed) := by
  have or1 : varintValue f 0 ||| shiftedLane (fun j => f j.val) 1 = varintValue f 1 :=
    varintValue_or_shiftedLane f (by decide)
  have or2 : varintValue f 1 ||| shiftedLane (fun j => f j.val) 2 = varintValue f 2 :=
    varintValue_or_shiftedLane f (by decide)
  have or3 : varintValue f 2 ||| shiftedLane (fun j => f j.val) 3 = varintValue f 3 :=
    varintValue_or_shiftedLane f (by decide)
  have or4 : varintValue f 3 ||| shiftedLane (fun j => f j.val) 4 = varintValue f 4 :=
    varintValue_or_shiftedLane f (by decide)
  have cases := decodeLanes_cases fun i => f i.val
  simp only [← varintValue_zero, or1, or2, or3, or4, continues_iff, terminates_iff] at cases
  rcases cases with ⟨t0, hdec⟩ | ⟨c0, t1, hdec⟩ | ⟨c0, c1, t2, hdec⟩ | ⟨c0, c1, c2, t3, hdec⟩ |
    ⟨c0, c1, c2, c3, t4, hdec⟩ | ⟨c0, c1, c2, c3, c4, hdec⟩
  · exact .inl ⟨0, ⟨fun j hj => absurd hj j.not_lt_zero, t0⟩, hdec⟩
  · exact .inl ⟨1, ⟨fun j (hj : j < 1) => by interval_cases j; exact c0, t1⟩, hdec⟩
  · exact .inl ⟨2, ⟨fun j (hj : j < 2) => by interval_cases j; exacts [c0, c1], t2⟩, hdec⟩
  · exact .inl ⟨3, ⟨fun j (hj : j < 3) => by interval_cases j; exacts [c0, c1, c2], t3⟩, hdec⟩
  · exact .inl ⟨4, ⟨fun j (hj : j < 4) => by interval_cases j; exacts [c0, c1, c2, c3], t4⟩, hdec⟩
  · exact .inr ⟨fun j hj => by interval_cases j; exacts [c0, c1, c2, c3, c4], hdec⟩

/-- A sequence of bytes has at most one first byte whose continuation bit is clear. -/
theorem terminatesAt_unique {f : Nat → Byte} {k k' : Nat} (h : TerminatesAt f k) (h' : TerminatesAt f k') : k = k' := by
  obtain ⟨hcont, hterm⟩ := h
  obtain ⟨hcont', hterm'⟩ := h'
  rcases Nat.lt_trichotomy k k' with hlt | heq | hgt
  · exact absurd (hcont' k hlt) (Nat.not_le.2 hterm)
  · exact heq
  · exact absurd (hcont k' hgt) (Nat.not_le.2 hterm')

/-- A varint of at most five bytes decodes to its value and length (R408, R409). -/
theorem decodeLanes_of_terminatesAt {f : Nat → Byte} {k : Fin 5} (h : TerminatesAt f k.val) :
    decodeLanes (fun i => f i.val) = .ok (varintValue f k.val) k := by
  rcases decodeLanes_closedForm f with ⟨k', h', hdec⟩ | ⟨hcont, -⟩
  · rwa [Fin.ext (terminatesAt_unique h h')]
  · exact absurd (hcont k.val k.isLt) (Nat.not_le.2 h.2)

/-- `Decode` answers `MalformedVarint` only where five bytes continue (R408). -/
theorem continues_of_decodeLanes_malformed {f : Nat → Byte} (h : decodeLanes (fun i => f i.val) = .malformed) :
    ∀ j < 5, 128 ≤ (f j).toNat := by
  rcases decodeLanes_closedForm f with ⟨k, -, hdec⟩ | ⟨hcont, -⟩
  · rw [hdec] at h; cases h
  · exact hcont

end Sys2Proof.Machine
end

section
/-!
PROOFS. The reads at the end of the window (41_load_and_read.md R502 to R504, R506, R507, R509; 20_memory.md R206, R207).
-/

namespace Sys2Proof.Machine

/-! ### The lanes of a load -/

section Lanes
variable {w : Window} {off : Word} {j : Nat}

/-- A lane inside the window holds the window's byte (R206). -/
theorem read?_of_laneFrom_lt (h : off.toInt.toNat + j < w.len) :
    w.read? (off.toInt.toNat + j) = some (laneFrom w off j) := by
  rw [Window.read?_of_lt h, laneFrom, windowLane, if_pos h]

/-- A lane at or beyond the window's end is the zero fill (R207). -/
theorem laneFrom_of_ge (h : w.len ≤ off.toInt.toNat + j) : laneFrom w off j = 0x00#8 :=
  if_neg (Nat.not_lt.2 h)

/-- The zero fill does not continue a varint, so a lane that does lies inside the window. -/
theorem lt_len_of_laneFrom_continues (h : 128 ≤ (laneFrom w off j).toNat) : off.toInt.toNat + j < w.len := by
  by_contra hge
  rw [laneFrom_of_ge (Nat.not_lt.1 hge)] at h
  exact absurd h (by decide)

end Lanes

/-! ### The reads -/

/-- The response of a read at `off` that decodes a varint of `k + 1` bytes (R502 to R504). -/
def readRsp (w : Window) (off : Word) (k : Fin 5) : RspWord :=
  decodedRsp (varintValue (laneFrom w off) k.val) k (packLanes fun i => laneFrom w off i.val)

/-- The fields of that response (R304, R409). -/
theorem readRsp_fields (w : Window) (off : Word) (k : Fin 5) :
    RspIs (readRsp w off k) 0 k.val (k.val + 1) (varintValue (laneFrom w off) k.val) (laneFrom w off) := by
  obtain ⟨hstatus, hlast, hconsumed, hrsv, hvalue, hlanes⟩ :=
    decodedRsp_fields (varintValue (laneFrom w off) k.val) k (packLanes fun i => laneFrom w off i.val)
  exact ⟨hstatus, hlast, hconsumed, hrsv, hvalue,
    fun i hi => (hlanes i hi).trans (packLanes_lane (fun i => laneFrom w off i.val) ⟨i, hi⟩)⟩

section Reads
variable {s : State} {off : Word} (lv : LaneWord) {k : Fin 5}

/-- `READ_AT` of a varint (R502). -/
theorem exec_readAt_of_terminatesAt (hstill : s.racing = none) (hin : OffsetIn off s.engine.window.len)
    (hterm : TerminatesAt (laneFrom s.engine.window off) k.val) :
    exec (.readAt off lv) s = .next (s.answered (readRsp s.engine.window off k)) := by
  rw [exec_readAt, withLoaded_of_in _ hstill hin, decodeLanes_of_terminatesAt hterm]
  rfl

/-- `PEEK` of a varint (R503). -/
theorem exec_peek_of_terminatesAt (o : Word) (hstill : s.racing = none)
    (hin : OffsetIn s.engine.cursor s.engine.window.len)
    (hterm : TerminatesAt (laneFrom s.engine.window s.engine.cursor) k.val) :
    exec (.peek o lv) s = .next (s.answered (readRsp s.engine.window s.engine.cursor k)) := by
  rw [exec_peek, withLoaded_of_in _ hstill hin, decodeLanes_of_terminatesAt hterm]
  rfl

/-- `READ_ADV` of a varint (R504). -/
theorem exec_readAdv_of_terminatesAt (o : Word) (hstill : s.racing = none)
    (hin : OffsetIn s.engine.cursor s.engine.window.len)
    (hterm : TerminatesAt (laneFrom s.engine.window s.engine.cursor) k.val) :
    exec (.readAdv o lv) s = .next ((s.answered (readRsp s.engine.window s.engine.cursor k)).atCursor
      (advanceCursor s.engine.cursor k)) := by
  rw [exec_readAdv, withLoaded_of_in _ hstill hin, decodeLanes_of_terminatesAt hterm]
  rfl

end Reads

/-- A request that loads, out of range when it starts, answers `OutOfRange` (R500). -/
theorem exec_of_out {i : Instr} {s : State} {off : Word} (hload : loadsFrom i s = some off)
    (hout : ¬ OffsetIn off s.engine.window.len) : exec i s = .next (s.answered (errorRsp .outOfRange)) := by
  cases i with
  | load o l => cases hload; exact (exec_load _ l s).trans (withLoaded_of_out _ hout)
  | readAt o l => cases hload; exact (exec_readAt _ l s).trans (withLoaded_of_out _ hout)
  | peek o l => cases hload; exact (exec_peek _ l s).trans (withLoaded_of_out _ hout)
  | readAdv o l => cases hload; exact (exec_readAdv _ l s).trans (withLoaded_of_out _ hout)
  | decode o l => cases hload
  | setCursor o l => cases hload
  | getCursor o l => cases hload
  | illegal c o l => cases hload

/-! ### `MalformedVarint` -/

/-- A decode completed in `t` whose response has status 2 found no varint (R702). -/
theorem decodeResult_malformed_of_status {x : DecodeResult} {lv : LaneWord} {s t : State} {r : RspWord}
    {rs : List RspWord} (h : completeDecode x lv s = .next t ∨ completeAdvance x lv s = .next t)
    (hresp : t.engine.responses = r :: rs) (hstatus : (r.extractLsb' 0 2).toNat = 2) : x = .malformed := by
  cases x with
  | malformed => rfl
  | ok v last =>
    have hok : t.engine.responses = decodedRsp v last lv :: s.engine.responses := by
      rcases h with h | h <;> cases h <;> rfl
    obtain ⟨rfl, -⟩ := List.cons.inj (hresp.symm.trans hok)
    obtain ⟨hzero, -⟩ := decodedRsp_fields v last lv
    omega

/-- A request that loads and answers status 2 was in range, and its lanes hold no varint (R702). -/
theorem decodeLanes_malformed_of_status {i : Instr} {s t : State} {off : Word} {r : RspWord} {rs : List RspWord}
    (hstill : s.racing = none) (hload : loadsFrom i s = some off) (h : exec i s = .next t)
    (hresp : t.engine.responses = r :: rs) (hstatus : (r.extractLsb' 0 2).toNat = 2) :
    decodeLanes (fun j => laneFrom s.engine.window off j.val) = .malformed := by
  by_cases hin : OffsetIn off s.engine.window.len
  · cases i with
    | load o l =>
      cases hload
      rw [exec_load, withLoaded_of_in _ hstill hin] at h
      cases h
      obtain ⟨rfl, -⟩ := List.cons.inj hresp
      obtain ⟨hzero, -⟩ := loadRsp_fields (laneFrom s.engine.window off)
      omega
    | readAt o l =>
      cases hload
      rw [exec_readAt, withLoaded_of_in _ hstill hin] at h
      exact decodeResult_malformed_of_status (.inl h) hresp hstatus
    | peek o l =>
      cases hload
      rw [exec_peek, withLoaded_of_in _ hstill hin] at h
      exact decodeResult_malformed_of_status (.inl h) hresp hstatus
    | readAdv o l =>
      cases hload
      rw [exec_readAdv, withLoaded_of_in _ hstill hin] at h
      exact decodeResult_malformed_of_status (.inr h) hresp hstatus
    | decode o l => cases hload
    | setCursor o l => cases hload
    | getCursor o l => cases hload
    | illegal c o l => cases hload
  · rw [exec_of_out hload hin] at h
    cases h
    obtain ⟨rfl, -⟩ := List.cons.inj hresp
    obtain ⟨hone, -⟩ := errorRsp_fields .outOfRange
    exact absurd (hone.symm.trans hstatus) (by decide)

/-- Settles O31: five lanes continue, and a lane that continues is no zero fill. -/
theorem malformedReadNeedsFiveBytes : Obligations.MalformedReadNeedsFiveBytes := by
  intro s t i off r rs hstill hload h hresp hstatus
  have hcont := continues_of_decodeLanes_malformed
    (decodeLanes_malformed_of_status hstill hload h hresp hstatus)
  have hlt : ∀ j < 5, off.toInt.toNat + j < s.engine.window.len :=
    fun j hj => lt_len_of_laneFrom_continues (hcont j hj)
  exact ⟨hlt 4 (by decide),
    fun j hj => ⟨_, read?_of_laneFrom_lt (hlt j hj), (continues_iff _).2 (hcont j hj)⟩⟩

/-! ### The end of the window -/

/-- Settles O32: the last byte ends the varint, and the lanes after it are the zero fill. -/
theorem lastByteOfWindowDecodes : Obligations.LastByteOfWindowDecodes := by
  intro s off lv b hstill hnonneg hlast hread hb
  have hin : OffsetIn off s.engine.window.len := ⟨hnonneg, by omega⟩
  have hlane : ∀ i, laneFrom s.engine.window off i = if i = 0 then b else 0x00#8 := by
    intro i
    cases i with
    | zero =>
      have hfirst := read?_of_laneFrom_lt (w := s.engine.window) (off := off) (j := 0) (by omega)
      exact (Option.some.inj (hread.symm.trans hfirst)).symm
    | succ i => exact laneFrom_of_ge (by omega)
  have hterm : TerminatesAt (laneFrom s.engine.window off) (0 : Fin 5).val :=
    ⟨fun j hj => absurd hj j.not_lt_zero, by simpa [hlane] using hb⟩
  have hvalue : varintValue (laneFrom s.engine.window off) 0 = b.zeroExtend 32 := by
    apply BitVec.eq_of_toNat_eq
    simp [varintValue, hlane]
    omega
  have hfields : RspIs (readRsp s.engine.window off 0) 0 0 1 (b.zeroExtend 32)
      (fun i => if i = 0 then b else 0x00#8) := by
    rw [← hvalue, ← funext hlane]
    exact readRsp_fields s.engine.window off 0
  refine ⟨readRsp s.engine.window off 0, hfields, exec_readAt_of_terminatesAt lv hstill hin hterm, ?_⟩
  rintro rfl
  exact ⟨exec_peek_of_terminatesAt lv _ hstill hin hterm, exec_readAdv_of_terminatesAt lv _ hstill hin hterm⟩

/-- One past the window's end is out of range, also where it turns negative (R500, R505). -/
theorem not_offsetIn_len_succ {len : Nat} (h : len ≤ 2 ^ 31 - 1) : ¬ OffsetIn (BitVec.ofNat 32 (len + 1)) len := by
  rintro ⟨hnonneg, hlt⟩
  rw [BitVec.toInt_eq_toNat_cond, BitVec.toNat_ofNat] at hnonneg hlt
  split at hlt <;> omega

/-- A nonnegative offset plus `a`, one further, as the sum of the numbers (R505). -/
theorem advanceCursor_of_add_eq {off : Word} {a : Fin 5} {len : Nat} (hnonneg : 0 ≤ off.toInt)
    (h : off.toInt.toNat + a.val = len) : advanceCursor off a = BitVec.ofNat 32 (len + 1) := by
  have hoff : off.toInt.toNat = off.toNat := by
    rw [BitVec.toInt_eq_toNat_cond] at hnonneg ⊢
    split <;> omega
  apply BitVec.eq_of_toNat_eq
  rw [advanceCursor, ← h, hoff]
  simp [Nat.add_assoc]

/-- Settles O30: lane `a` is the zero fill, which ends the varint and adds nothing to its value. -/
theorem truncatedVarintDecodesAgainstZeroFill : Obligations.TruncatedVarintDecodesAgainstZeroFill := by
  intro s off lv a hstill hlen hin hend ha hcont
  obtain ⟨k, rfl⟩ : ∃ k : Fin 5, k.val = a := ⟨⟨a, ha⟩, rfl⟩
  have hfill : laneFrom s.engine.window off k.val = 0x00#8 := laneFrom_of_ge hend.ge
  have hterm : TerminatesAt (laneFrom s.engine.window off) k.val := ⟨hcont, by rw [hfill]; decide⟩
  obtain ⟨n, hn⟩ : ∃ n, k.val = n + 1 := Nat.exists_eq_add_one.2 (by omega)
  have hvalue : varintValue (laneFrom s.engine.window off) k.val =
      varintValue (laneFrom s.engine.window off) (k.val - 1) := by
    rw [hn] at hfill ⊢
    exact varintValue_succ_of_zero hfill
  have hfields := readRsp_fields s.engine.window off k
  rw [hvalue] at hfields
  refine ⟨⟨_, exec_readAt_of_terminatesAt lv hstill hin hterm, hfields⟩, ?_⟩
  rintro rfl
  have hadv : exec (.readAdv s.engine.cursor lv) s =
      .next ((s.answered (readRsp s.engine.window s.engine.cursor k)).atCursor
        (BitVec.ofNat 32 (s.engine.window.len + 1))) := by
    rw [← advanceCursor_of_add_eq hin.1 hend]
    exact exec_readAdv_of_terminatesAt lv _ hstill hin hterm
  have hout := not_offsetIn_len_succ hlen
  exact ⟨_, _, hadv, rfl, hfields, _, exec_of_out rfl hout, errorRsp_fields .outOfRange, exec_of_out rfl hout⟩

end Sys2Proof.Machine
end

section
/-!
PROOFS. The request word (30_encoding.md R300, R301, R303, R307 to R312): its fields fix it, the decoder reads them, and
encoding and decoding are inverse.
-/

namespace Sys2Proof.Machine

/-! ### The fields of a request word -/

/-- `RSV` and `OP`, one after the other, are `CTL` (R300). -/
theorem rsv_append_op (req : ReqWord) : req.rsv ++ req.op = req.ctl :=
  BitVec.extractLsb'_append_extractLsb'_eq_extractLsb' (by decide)

/-- `LV_IN`, `OFFSET` and `CTL`, one after the other, are the whole request word (R300). -/
theorem lvIn_append_offset_append_ctl (req : ReqWord) : req.lvIn ++ (req.offset ++ req.ctl) = req :=
  have hlow : req.offset ++ req.ctl = req.extractLsb' 0 64 :=
    BitVec.extractLsb'_append_extractLsb'_eq_extractLsb' (by decide)
  calc req.lvIn ++ (req.offset ++ req.ctl) = req.lvIn ++ req.extractLsb' 0 64 := by rw [hlow]
    _ = req.extractLsb' 0 128 := BitVec.extractLsb'_append_extractLsb'_eq_extractLsb' (by decide)
    _ = req := BitVec.extractLsb'_eq_self

/-- Packing the fields of a request word gives it back (R300). -/
theorem packReq_of_fields (req : ReqWord) : packReq req.lvIn req.offset req.ctl = req := by
  obtain ⟨hctl, hoff, hlv⟩ := Laws.packReq_fields req.lvIn req.offset req.ctl
  rw [← lvIn_append_offset_append_ctl (packReq _ _ _), hctl, hoff, hlv, lvIn_append_offset_append_ctl]

/-! ### The decoder -/

/-- Settles O3: the reserved bits are tested first, then the operation is looked up. -/
theorem decodeSelectsByControlWord : Obligations.DecodeSelectsByControlWord := by
  intro req
  constructor
  · intro hill
    by_cases hrsv : req.rsv = 0#29
    · have hop : req.op = 7#3 := hill.resolve_left (not_not_intro hrsv)
      simp [decodeReq, hrsv, hop]
    · exact if_pos hrsv
  · intro hrsv
    refine ⟨?_, ?_, ?_, ?_, ?_, ?_, ?_⟩ <;> intro hop <;> simp [decodeReq, hrsv, hop]

/-- A word with the three fields of a well-formed request decodes to that request (R307, R308). -/
theorem decodeReq_eq_of_fields {req : ReqWord} {i : Instr} (hwf : i.wf = true) (hctl : req.ctl = i.ctl)
    (hoff : req.offset = i.offset) (hlv : req.lvIn = i.lvIn) : decodeReq req = i := by
  obtain ⟨hop, hrsv⟩ := Laws.op_of_ctl req
  rw [hctl] at hop hrsv
  obtain ⟨hillegal, hlegal⟩ := decodeSelectsByControlWord req
  cases i with
  | illegal c o l =>
    have hsel : req.rsv ≠ 0#29 ∨ req.op = 7#3 := by
      simpa [hop, hrsv, Instr.ctl, Instr.wf, ctlIsIllegal, or_comm] using hwf
    exact (hillegal hsel).trans (congr (congrArg₂ Instr.illegal hctl hoff) hlv)
  | _ o l =>
    have hzero : req.rsv = 0#29 := by simp [hrsv, Instr.ctl]
    simpa [hop, hoff, hlv, Instr.ctl, Instr.offset, Instr.lvIn] using hlegal hzero

/-- Settles O1: the encoding of a request has the request's own fields. -/
theorem decodeInvertsEncode : Obligations.DecodeInvertsEncode := by
  intro i hwf
  obtain ⟨hctl, hoff, hlv⟩ := Laws.packReq_fields i.lvIn i.offset i.ctl
  exact decodeReq_eq_of_fields hwf hctl hoff hlv

/-- Settles O4: each word has the three fields of its request. -/
theorem writtenWordsDecode : Obligations.WrittenWordsDecode := by
  refine ⟨?_, ?_, ?_, ?_, ?_, ?_, ?_, ?_⟩ <;> exact decodeReq_eq_of_fields rfl rfl rfl rfl

/-- A request word's control word is illegal, or is that of one of the seven operations (R307, R309). -/
theorem ctl_cases (req : ReqWord) : ctlIsIllegal req.ctl = true ∨ ∃ op : Fin 7, req.ctl = BitVec.ofNat 32 op.val := by
  obtain ⟨hop, hrsv⟩ := Laws.op_of_ctl req
  by_cases hlegal : req.rsv = 0#29 ∧ req.op ≠ 7#3
  · obtain ⟨hzero, hne⟩ := hlegal
    have hlow : ∀ op : BitVec 3, op ≠ 7#3 → ∃ k : Fin 7, 0#29 ++ op = BitVec.ofNat 32 k.val := by decide
    rw [← rsv_append_op, hzero]
    exact .inr (hlow _ hne)
  · refine .inl ?_
    rw [ctlIsIllegal, ← hop, ← hrsv]
    simpa [or_iff_not_imp_right] using hlegal

/-- Every request word has the three fields of a well-formed request (R300, R308). -/
theorem exists_wf_with_fields (req : ReqWord) :
    ∃ i : Instr, i.wf = true ∧ req.ctl = i.ctl ∧ req.offset = i.offset ∧ req.lvIn = i.lvIn := by
  rcases ctl_cases req with hill | ⟨op, hctl⟩
  · exact ⟨.illegal req.ctl req.offset req.lvIn, hill, rfl, rfl, rfl⟩
  · match op with
    | 0 => exact ⟨.decode req.offset req.lvIn, rfl, hctl, rfl, rfl⟩
    | 1 => exact ⟨.load req.offset req.lvIn, rfl, hctl, rfl, rfl⟩
    | 2 => exact ⟨.readAt req.offset req.lvIn, rfl, hctl, rfl, rfl⟩
    | 3 => exact ⟨.peek req.offset req.lvIn, rfl, hctl, rfl, rfl⟩
    | 4 => exact ⟨.readAdv req.offset req.lvIn, rfl, hctl, rfl, rfl⟩
    | 5 => exact ⟨.setCursor req.offset req.lvIn, rfl, hctl, rfl, rfl⟩
    | 6 => exact ⟨.getCursor req.offset req.lvIn, rfl, hctl, rfl, rfl⟩

/-- Settles O2: the word decodes to the request whose fields it has, and its fields fix the word. -/
theorem encodeInvertsDecode : Obligations.EncodeInvertsDecode := by
  intro req
  obtain ⟨i, hwf, hctl, hoff, hlv⟩ := exists_wf_with_fields req
  rw [decodeReq_eq_of_fields hwf hctl hoff hlv]
  refine ⟨hwf, ?_⟩
  rw [encode, ← hctl, ← hoff, ← hlv, packReq_of_fields]

/-! ### Lanes -/

/-- A lane of `LV_IN` is eight bits of the whole word (R303). -/
theorem unpackLanes_lvIn (req : ReqWord) (i : Fin 8) :
    unpackLanes req.lvIn i = req.extractLsb' (64 + 8 * i.val) 8 := by
  apply BitVec.eq_of_getLsbD_eq
  intro b hb
  have hbit : 8 * i.val + b < 64 := by omega
  simp [unpackLanes, hb, hbit, Nat.add_assoc]

/-- Lane words with the same lanes are equal: bit `b` is bit `b % 8` of lane `b / 8` (R303). -/
theorem unpackLanes_injective : Function.Injective unpackLanes := by
  intro lv lv' h
  apply BitVec.eq_of_getLsbD_eq
  intro b hb
  have hlane : lv.extractLsb' (8 * (b / 8)) 8 = lv'.extractLsb' (8 * (b / 8)) 8 :=
    congrFun h ⟨b / 8, by omega⟩
  have hbit := congrArg (BitVec.getLsbD · (b % 8)) hlane
  simpa [Nat.mod_lt, Nat.div_add_mod] using hbit

/-- Unpacking undoes packing (R303). -/
theorem unpackLanes_packLanes (L : Lanes) : unpackLanes (packLanes L) = L := funext (packLanes_lane L)

/-- Settles O8: packing undoes unpacking because the lanes of a word fix it. -/
theorem lanePackingIsLittleEndian : Obligations.LanePackingIsLittleEndian :=
  ⟨unpackLanes_lvIn, fun _ => unpackLanes_injective (unpackLanes_packLanes _), unpackLanes_packLanes⟩

/-! ### The assembler -/

/-- A line that stands for a request assembles to a word with its fields (R311). -/
theorem assemble_of_instr {l : AsmLine} {i : Instr} (h : l.instr = some i) :
    ∃ req, l.assemble = some req ∧ ReqIs req i.ctl i.offset i.lvIn :=
  ⟨encode i, by rw [AsmLine.assemble, h]; rfl, Laws.packReq_fields _ _ _⟩

/-- A decimal within 32 bits is the word that reads as it (R302, R311). -/
theorem offArg_dec_word {n : Int} (hlo : -2 ^ 31 ≤ n) (hhi : n < 2 ^ 31) :
    ∃ w : Word, (OffArg.dec n).word = some w ∧ w.toInt = n :=
  ⟨_, if_pos ⟨hlo, hhi⟩, BitVec.toInt_ofInt_eq_self (by decide) hlo hhi⟩

/-- A brace list of 1 to 8 bytes has lane 0 first and its missing lanes zero (R311). -/
theorem lvArg_bytes_word {bs : List Byte} (hpos : 1 ≤ bs.length) (hlen : bs.length ≤ 8) :
    ∃ w : LaneWord, (LvArg.bytes bs).word = some w ∧
      ∀ i : Nat, i < 8 → w.extractLsb' (8 * i) 8 = bs.getD i 0x00#8 :=
  ⟨_, if_pos ⟨hpos, hlen⟩, fun i hi => packLanes_lane (fun j => bs.getD j.val 0x00#8) ⟨i, hi⟩⟩

/-- Settles O6, line by line: each line stands for the request of its row. -/
theorem assembledWordsHaveTableFields : Obligations.AssembledWordsHaveTableFields := by
  refine ⟨?decode, ?offsets, ⟨rfl, assemble_of_instr (i := .peek 0#32 0#64) rfl⟩,
    ⟨rfl, assemble_of_instr (i := .readAdv 0#32 0#64) rfl⟩, ⟨rfl, assemble_of_instr (i := .getCursor 0#32 0#64) rfl⟩,
    ⟨rfl, rfl, assemble_of_instr (i := .setCursor 0#32 0#64) rfl⟩, fun _ => rfl,
    fun n hlo hhi => offArg_dec_word hlo (Int.lt_of_le_sub_one hhi), fun _ => rfl, fun _ => lvArg_bytes_word⟩
  case decode =>
    intro lv w hw
    exact ⟨rfl, assemble_of_instr (i := .decode 0#32 w) (by simp [AsmLine.instr, hw])⟩
  case offsets =>
    intro off w hw
    exact ⟨⟨rfl, assemble_of_instr (i := .load w 0#64) (by simp [AsmLine.instr, hw])⟩,
      ⟨rfl, assemble_of_instr (i := .readAt w 0#64) (by simp [AsmLine.instr, hw])⟩,
      ⟨rfl, assemble_of_instr (i := .setCursor w 0#64) (by simp [AsmLine.instr, hw])⟩⟩

/-- Settles O5: no request's meaning names the fields it ignores. -/
theorem ignoredFieldsHaveNoEffect : Obligations.IgnoredFieldsHaveNoEffect := by
  intro o o' l l' s
  simp only [exec_load, exec_readAt, exec_peek, exec_readAdv, exec_setCursor, exec_getCursor, and_true]
  exact (exec_decode o l s).trans (exec_decode o' l s).symm

end Sys2Proof.Machine
end

section
/-!
PROOFS. The response word (30_encoding.md R304 to R306): what each request can answer, and the fields it leaves zero.
-/

namespace Sys2Proof.Machine

/-! ### The responses a request can give -/

/-- A response with which the request completes with OK (R420, R501 to R504, R600, R601). -/
def IsOkRsp : Instr → RspWord → Prop
  | .decode _ _, r | .readAt _ _, r | .peek _ _, r | .readAdv _ _, r => ∃ v last lv, r = decodedRsp v last lv
  | .load _ _, r => ∃ lv, r = packRsp .ok 0#32 0#3 0#3 lv
  | .setCursor _ _, r => r = packRsp .ok 0#32 0#3 0#3 0#64
  | .getCursor _ _, r => ∃ v, r = packRsp .ok v 0#3 0#3 0#64
  | .illegal _ _ _, _ => False

/-- From `s` to `t` one response came in: that of an error, or one of those in `ok` (R306, R807). -/
def AnswersOr (ok : RspWord → Prop) (s t : State) : Prop :=
  ∃ r, t.engine.responses = r :: s.engine.responses ∧ ((∃ st, st ≠ .ok ∧ r = errorRsp st) ∨ ok r)

/-- A decode answers `MalformedVarint` or a decoded varint (R420, R502 to R504). -/
theorem completeDecode_answers {x : DecodeResult} {lv : LaneWord} {s t : State}
    (h : completeDecode x lv s = .next t ∨ completeAdvance x lv s = .next t) :
    AnswersOr (fun r => ∃ v last lv, r = decodedRsp v last lv) s t := by
  cases x with
  | malformed =>
    rcases h with h | h <;> cases h <;> exact ⟨_, rfl, .inl ⟨.malformed, by decide, rfl⟩⟩
  | ok v last =>
    rcases h with h | h <;> cases h <;> exact ⟨_, rfl, .inr ⟨v, last, lv, rfl⟩⟩

/-- A request that loads answers `OutOfRange`, or what it answers once it has loaded (R500). -/
theorem withLoaded_answers {ok : RspWord → Prop} {off : Word} {s t : State} {k : Nat → Lanes → State → StepOutcome}
    (h : withLoaded off s k = .next t) (hk : ∀ n L u, k n L s.countDraws = .next u → AnswersOr ok s.countDraws u) :
    AnswersOr ok s t := by
  rcases withLoaded_cases off s with ⟨-, hout⟩ | ⟨-, n, L, hin⟩
  · rw [hout] at h
    cases h
    exact ⟨_, rfl, .inl ⟨.outOfRange, by decide, rfl⟩⟩
  · rw [hin] at h
    simpa only [AnswersOr, State.countDraws_engine] using hk n L t h

/-- Every request answers an error or one of its OK responses. -/
theorem exec_answersOr {i : Instr} {s t : State} (h : exec i s = .next t) : AnswersOr (IsOkRsp i) s t := by
  cases i with
  | decode o l => exact completeDecode_answers (.inl h)
  | load o l =>
    rw [exec_load] at h
    refine withLoaded_answers h fun n L u hu => ?_
    cases hu
    exact ⟨_, rfl, .inr ⟨_, rfl⟩⟩
  | readAt o l =>
    rw [exec_readAt] at h
    exact withLoaded_answers h fun _ _ _ hu => completeDecode_answers (.inl hu)
  | peek o l =>
    rw [exec_peek] at h
    exact withLoaded_answers h fun _ _ _ hu => completeDecode_answers (.inl hu)
  | readAdv o l =>
    rw [exec_readAdv] at h
    exact withLoaded_answers h fun _ _ _ hu => completeDecode_answers (.inr hu)
  | setCursor o l =>
    cases h
    exact ⟨_, rfl, .inr rfl⟩
  | getCursor o l =>
    cases h
    exact ⟨_, rfl, .inr ⟨_, rfl⟩⟩
  | illegal c o l =>
    cases h
    exact ⟨_, rfl, .inl ⟨.illegalRequest, by decide, rfl⟩⟩

/-! ### The fields of those responses -/

/-- Every OK response is packed with the status OK. -/
theorem IsOkRsp.exists_eq_packRsp {i : Instr} {r : RspWord} (h : IsOkRsp i r) :
    ∃ v last consumed lv, r = packRsp .ok v last consumed lv := by
  cases i with
  | decode o l | readAt o l | peek o l | readAdv o l =>
    obtain ⟨v, last, lv, rfl⟩ := h
    exact ⟨_, _, _, _, rfl⟩
  | load o l =>
    obtain ⟨lv, rfl⟩ := h
    exact ⟨_, _, _, _, rfl⟩
  | setCursor o l => exact ⟨_, _, _, _, h⟩
  | getCursor o l =>
    obtain ⟨v, rfl⟩ := h
    exact ⟨_, _, _, _, rfl⟩
  | illegal c o l => exact h.elim

/-- `LV_OUT` of a packed response (R304); a response word has its lanes where a request word has them. -/
theorem packRsp_lvOut (st : Status) (v : Word) (last consumed : BitVec 3) (lv : LaneWord) :
    (packRsp st v last consumed lv).extractLsb' 64 64 = lv := by
  obtain ⟨-, -, -, -, -, hlanes⟩ := packRsp_fields st v last consumed lv
  exact unpackLanes_injective (funext fun i => (unpackLanes_lvIn _ i).trans (hlanes i.val i.isLt))

/-- The status code 0 is OK's alone (R305). -/
theorem Status.code_toNat_eq_zero {st : Status} : st.code.toNat = 0 ↔ st = .ok := by
  cases st <;> decide

/-- Settles O42: every request answers an error response or one of its OK responses. -/
theorem responseFieldsThatCarryNothingAreZero : Obligations.ResponseFieldsThatCarryNothingAreZero := by
  intro i s t r rs h hresp
  obtain ⟨r', hresp', hcase⟩ := exec_answersOr h
  obtain ⟨rfl, -⟩ := List.cons.inj (hresp.symm.trans hresp')
  rcases hcase with ⟨st, hst, rfl⟩ | hok
  · obtain ⟨hstatus, -, -, hrsv, -, -⟩ := errorRsp_fields st
    exact ⟨hrsv, fun _ => hstatus.symm ▸ errorRsp_fields st,
      fun hzero => absurd (Status.code_toNat_eq_zero.1 (hstatus.symm.trans hzero)) hst⟩
  · obtain ⟨v, last, consumed, lv, hpack⟩ := hok.exists_eq_packRsp
    obtain ⟨hstatus, -, -, hrsv, -, -⟩ := hpack ▸ packRsp_fields .ok v last consumed lv
    refine ⟨hrsv, fun hne => absurd hstatus hne, fun _ => ⟨?load, ?setCursor, ?getCursor⟩⟩
    case load =>
      rintro ⟨o, l, rfl⟩
      obtain ⟨lv, rfl⟩ := hok
      obtain ⟨-, hlast, hconsumed, -, hvalue, -⟩ := packRsp_fields .ok 0#32 0#3 0#3 lv
      exact ⟨BitVec.eq_of_toNat_eq hlast, BitVec.eq_of_toNat_eq hconsumed, hvalue⟩
    case setCursor =>
      rintro ⟨o, l, rfl⟩
      exact Eq.trans hok (by decide)
    case getCursor =>
      rintro ⟨o, l, rfl⟩
      obtain ⟨v, rfl⟩ := hok
      obtain ⟨-, hlast, hconsumed, -, -, -⟩ := packRsp_fields .ok v 0#3 0#3 0#64
      exact ⟨BitVec.eq_of_toNat_eq hlast, BitVec.eq_of_toNat_eq hconsumed, packRsp_lvOut _ _ _ _ _⟩

end Sys2Proof.Machine
end

section
/-!
PROOFS. The rules of `Decode` (40_decode_engine.md R401 to R403, R407 to R412): when it succeeds and with which value, and
the bits of the lanes it does not see.
-/

namespace Sys2Proof.Machine

/-- Settles O9. -/
theorem continuationMaskBits : Obligations.ContinuationMaskBits :=
  fun L i => ⟨rfl, continues_iff (L i)⟩

/-! ### When `Decode` succeeds -/

/-- A lane of the vector, by its number. -/
theorem laneAt_of_lt (L : Lanes) {i : Nat} (h : i < 8) : laneAt L i = L ⟨i, h⟩ := dif_pos h

/-- A lane vector is its lanes, each by its number. -/
theorem laneAt_lanes (L : Lanes) : (fun i : Fin 8 => laneAt L i.val) = L :=
  funext fun i => laneAt_of_lt L i.isLt

/-- `Decode` succeeds exactly with the length and the closed-form value of the varint in its lanes (R402, R408, R409). -/
theorem decodeLanes_eq_ok_iff {L : Lanes} {v : Word} {last : Fin 5} :
    decodeLanes L = .ok v last ↔ TerminatesAt (laneAt L) last.val ∧ v = varintValue (laneAt L) last.val := by
  constructor
  · intro h
    rcases decodeLanes_closedForm (laneAt L) with ⟨k, hterm, hdec⟩ | ⟨-, hdec⟩
    · rw [laneAt_lanes, h] at hdec
      cases hdec
      exact ⟨hterm, rfl⟩
    · rw [laneAt_lanes, h] at hdec
      cases hdec
  · rintro ⟨hterm, rfl⟩
    simpa only [laneAt_lanes] using decodeLanes_of_terminatesAt hterm

/-- `Decode` is malformed exactly when lanes 0..4 all continue (R402, R403). -/
theorem decodeLanes_eq_malformed_iff {L : Lanes} :
    decodeLanes L = .malformed ↔ ∀ j < 5, 128 ≤ (laneAt L j).toNat := by
  cases h : decodeLanes L with
  | malformed =>
    exact iff_of_true rfl (continues_of_decodeLanes_malformed ((congrArg decodeLanes (laneAt_lanes L)).trans h))
  | ok v last =>
    obtain ⟨⟨-, hclear⟩, -⟩ := decodeLanes_eq_ok_iff.1 h
    exact iff_of_false nofun fun hcont => absurd (hcont last.val last.isLt) (Nat.not_le.2 hclear)

/-- Settles O10: lanes 0..4 one by one. -/
theorem malformedExactlyWhenFiveContinue : Obligations.MalformedExactlyWhenFiveContinue := by
  intro L
  rw [decodeLanes_eq_malformed_iff]
  simp only [continues_iff]
  constructor
  · intro h
    exact ⟨h 0 (by decide), h 1 (by decide), h 2 (by decide), h 3 (by decide), h 4 (by decide)⟩
  · rintro ⟨c0, c1, c2, c3, c4⟩ j hj
    interval_cases j
    exacts [c0, c1, c2, c3, c4]

/-- Settles O11: the value that goes with the length is the closed form. -/
theorem lastIsFirstClearLane : Obligations.LastIsFirstClearLane := by
  intro L last
  simp only [decodeLanes_eq_ok_iff, exists_and_left, exists_eq, and_true]

/-! ### The bits of the value -/

/-- The closed form bit by bit: bit `b` is bit `b % 7` of byte `b / 7`, up to the last byte (R407, R409). -/
theorem varintValue_getLsbD (f : Nat → Byte) {k b : Nat} (hk : k < 5) (hb : b < 32) :
    (varintValue f k).getLsbD b = (decide (b / 7 ≤ k) && (f (b / 7)).getLsbD (b % 7)) := by
  have hlane : ∀ i : Fin 5, (shiftedLane (fun j => f j.val) i).getLsbD b =
      (decide (b / 7 = i.val) && (f (b / 7)).getLsbD (b % 7)) := by
    intro i
    rw [shiftedLane_getLsbD _ i b hb]
    by_cases hi : b / 7 = i.val
    · have hlow : 7 * i.val ≤ b := by omega
      have hhigh : b < 7 * i.val + 7 := by omega
      have hbit : b - 7 * i.val = b % 7 := by omega
      simp [hlow, hhigh, hbit, hi]
    · have hout : ¬ (7 * i.val ≤ b ∧ b < 7 * i.val + 7) := by omega
      simp [← Bool.decide_and, hout, hi]
  induction k with
  | zero => simpa [varintValue_zero] using hlane 0
  | succ k ih =>
    rw [← varintValue_or_shiftedLane f hk, BitVec.getLsbD_or, ih (by omega), hlane ⟨k + 1, hk⟩,
      ← Bool.and_or_distrib_right, ← Bool.decide_or]
    simp only [Nat.le_succ_iff]

/-- The payload of a byte `i` of the varint stands in the value from bit `7 i` on, cut at bit 31 (R409). -/
theorem extractLsb'_varintValue (f : Nat → Byte) {k i w : Nat} (hk : k < 5) (hi : i ≤ k) (hw : w ≤ 7)
    (hcut : 7 * i + w ≤ 32) : (varintValue f k).extractLsb' (7 * i) w = (f i).extractLsb' 0 w := by
  apply BitVec.eq_of_getLsbD_eq
  intro b hb
  have hdiv : (7 * i + b) / 7 = i := by omega
  have hmod : (7 * i + b) % 7 = b := by omega
  simp [varintValue_getLsbD f hk (show 7 * i + b < 32 by omega), hb, hdiv, hmod, hi]

/-- Settles O12: the sum's bits and its bound. -/
theorem decodedValueClosedForm : Obligations.DecodedValueClosedForm := by
  intro L v last h
  obtain ⟨-, rfl⟩ := decodeLanes_eq_ok_iff.1 h
  refine ⟨rfl, fun i hi => extractLsb'_varintValue _ last.isLt (by omega) le_rfl (by omega),
    fun hlast => extractLsb'_varintValue _ (i := 4) last.isLt hlast.ge (by decide) (by decide), fun _ => ?_⟩
  rw [varintValue, BitVec.toNat_ofNat]
  exact (Nat.mod_le _ _).trans_lt (payloads_lt _ _)

/-! ### What `Decode` does not see -/

/-- Byte `j` of two sequences is the same as far as `Decode` uses it: its continuation bit, and the payload bits that reach
one of the value's 32 (R402, R404 to R407). -/
def SameUsedBits (f g : Nat → Byte) (j : Nat) : Prop :=
  (f j).getLsbD 7 = (g j).getLsbD 7 ∧ ∀ b < 32, b / 7 = j → (f j).getLsbD (b % 7) = (g j).getLsbD (b % 7)

/-- The same byte has the same used bits. -/
theorem sameUsedBits_of_eq {f g : Nat → Byte} {j : Nat} (h : f j = g j) : SameUsedBits f g j := by
  simp [SameUsedBits, h]

/-- The same used bits continue a varint alike. -/
theorem SameUsedBits.continues {f g : Nat → Byte} {j : Nat} (h : SameUsedBits f g j) :
    128 ≤ (f j).toNat ↔ 128 ≤ (g j).toNat := by
  rw [← continues_iff, ← continues_iff, h.1]

/-- The value depends only on the payload bits used. -/
theorem varintValue_congr {f g : Nat → Byte} {k : Nat} (hk : k < 5)
    (h : ∀ b < 32, b / 7 ≤ k → (f (b / 7)).getLsbD (b % 7) = (g (b / 7)).getLsbD (b % 7)) :
    varintValue f k = varintValue g k := by
  apply BitVec.eq_of_getLsbD_eq
  intro b hb
  rw [varintValue_getLsbD f hk hb, varintValue_getLsbD g hk hb]
  by_cases hle : b / 7 ≤ k
  · rw [h b hb hle]
  · simp [hle]

/-- `Decode` depends only on the used bits of the lanes of 0..4 before which every lane continues (R402, R407). -/
theorem decodeLanes_congr {L L' : Lanes} (h : ∀ j < 5, (∀ i < j, 128 ≤ (laneAt L i).toNat) →
    SameUsedBits (laneAt L) (laneAt L') j) : decodeLanes L' = decodeLanes L := by
  cases hdec : decodeLanes L with
  | malformed =>
    have hcont := decodeLanes_eq_malformed_iff.1 hdec
    exact decodeLanes_eq_malformed_iff.2 fun j hj =>
      (h j hj fun i hi => hcont i (hi.trans hj)).continues.1 (hcont j hj)
  | ok v last =>
    obtain ⟨⟨hcont, hclear⟩, rfl⟩ := decodeLanes_eq_ok_iff.1 hdec
    have hsame : ∀ j ≤ last.val, SameUsedBits (laneAt L) (laneAt L') j :=
      fun j hj => h j (hj.trans_lt last.isLt) fun i hi => hcont i (hi.trans_le hj)
    refine decodeLanes_eq_ok_iff.2 ⟨⟨fun j hj => (hsame j hj.le).continues.1 (hcont j hj), ?clear⟩,
      varintValue_congr last.isLt fun b hb hle => (hsame _ hle).2 b hb rfl⟩
    exact Nat.not_le.1 (mt (hsame _ le_rfl).continues.2 (Nat.not_le.2 hclear))

/-- Settles O13: of lane 4 only bits 3..0 reach the value. -/
theorem highBitsOfFifthByteDropped : Obligations.HighBitsOfFifthByteDropped := by
  refine ⟨fun L L' hothers hcont hlow => (decodeLanes_congr fun j hj _ => ?_).symm,
    ⟨0x80000000#32, by decide, by decide⟩, ⟨0xFFFFFFFF#32, by decide, by decide⟩⟩
  by_cases h4 : j = 4
  · subst h4
    refine ⟨hcont, fun b hb hdiv => ?_⟩
    have hbit : b % 7 < 4 := by omega
    have heq : (L 4).getLsbD (b % 7) = (L' 4).getLsbD (b % 7) := by
      simpa [hbit] using congrArg (BitVec.getLsbD · (b % 7)) hlow
    exact heq
  · apply sameUsedBits_of_eq
    rw [laneAt_of_lt L (by omega), laneAt_of_lt L' (by omega)]
    exact hothers _ fun h => h4 (congrArg Fin.val h)

/-- Settles O14: a lane before which every lane continues is none beyond lane `k`. -/
theorem discardedLanesHaveNoEffect : Obligations.DiscardedLanesHaveNoEffect := by
  intro L L' k hk hcont hclear hsame
  refine decodeLanes_congr fun j hj hbefore => sameUsedBits_of_eq ?_
  have hjk : j ≤ k := by
    by_contra hlt
    have hcontk := hbefore k (Nat.not_le.1 hlt)
    rw [laneAt_of_lt L (by omega), ← continues_iff, hclear _ rfl] at hcontk
    cases hcontk
  rw [laneAt_of_lt L (by omega), laneAt_of_lt L' (by omega)]
  exact (hsame _ (le_min hjk (Nat.le_of_lt_succ hj))).symm

/-! ### Longer encodings of the same value -/

/-- Setting a byte's continuation bit makes it continue and leaves its payload (R401, R404). -/
theorem or_continuation (b : Byte) :
    128 ≤ (b ||| 0x80#8).toNat ∧ ∀ x < 7, (b ||| 0x80#8).getLsbD x = b.getLsbD x := by
  constructor
  · rw [← continues_iff]
    simp
  · intro x hx
    have hclear : (0x80#8).getLsbD x = false := by interval_cases x <;> rfl
    rw [BitVec.getLsbD_or, hclear, Bool.or_false]

/-- Settles O15: the old last lane continues with the same payload, and the zero group behind it adds nothing. -/
theorem nonMinimalEncodingAccepted : Obligations.NonMinimalEncodingAccepted := by
  intro L L' v last next h hnext hbefore hlast hzero
  obtain ⟨⟨hcont, -⟩, rfl⟩ := decodeLanes_eq_ok_iff.1 h
  have hbefore' : ∀ j < last.val, laneAt L' j = laneAt L j := fun j hj => by
    rw [laneAt_of_lt L' (by omega), laneAt_of_lt L (by omega)]
    exact hbefore _ hj
  have hlast' : laneAt L' last.val = laneAt L last.val ||| 0x80#8 := by
    rw [laneAt_of_lt L' (by omega), laneAt_of_lt L (by omega)]
    exact hlast
  have hzero' : laneAt L' next.val = 0x00#8 := (laneAt_of_lt L' (by omega)).trans hzero
  obtain ⟨hset, hpayload⟩ := or_continuation (laneAt L last.val)
  refine decodeLanes_eq_ok_iff.2 ⟨⟨fun j hj => ?continues, by rw [hzero']; decide⟩, ?value⟩
  case continues =>
    rcases Nat.lt_succ_iff_lt_or_eq.1 (hnext ▸ hj) with hlt | rfl
    · rw [hbefore' j hlt]
      exact hcont j hlt
    · rwa [hlast']
  case value =>
    rw [hnext] at hzero' ⊢
    rw [varintValue_succ_of_zero hzero']
    refine varintValue_congr last.isLt fun b hb hle => ?_
    rcases hle.lt_or_eq with hlt | heq
    · rw [hbefore' _ hlt]
    · rw [heq, hlast', hpayload _ (Nat.mod_lt _ (by decide))]

end Sys2Proof.Machine
end

section
/-!
PROOFS. Varints as the encoder of property A8 gives them (95_test_vectors.md A8; 00_scope.md R3, R14): its bytes end at the
last one, and their payloads sum up to the number.
-/

namespace Sys2Proof.Machine

/-- The payloads of a sequence are that of its first byte and 128 times those of the rest. -/
theorem payloads_succ (f : Nat → Byte) (k : Nat) :
    ∑ i ∈ Finset.range (k + 1), (f i).toNat % 128 * 2 ^ (7 * i) =
      128 * ∑ i ∈ Finset.range k, (f (i + 1)).toNat % 128 * 2 ^ (7 * i) + (f 0).toNat % 128 := by
  rw [Finset.sum_range_succ', Finset.mul_sum]
  congr 1
  · refine Finset.sum_congr rfl fun i _ => ?_
    rw [Nat.mul_succ, Nat.pow_add]
    ring
  · simp

/-- A varint whose first byte continues ends where the rest of it ends. -/
theorem terminatesAt_succ {f : Nat → Byte} {k : Nat} (hfirst : 128 ≤ (f 0).toNat)
    (hrest : TerminatesAt (fun i => f (i + 1)) k) : TerminatesAt f (k + 1) := by
  obtain ⟨hcont, hclear⟩ := hrest
  refine ⟨fun j hj => ?_, hclear⟩
  cases j with
  | zero => exact hfirst
  | succ j => exact hcont j (Nat.lt_of_succ_lt_succ hj)

/-- A sequence that begins with the one byte of a number below 128 is a varint of that number. -/
theorem terminatesAt_zero_of_lt {f : Nat → Byte} {n : Nat} (hn : n < 128) (h : f 0 = BitVec.ofNat 8 n) :
    TerminatesAt f 0 ∧ ∑ i ∈ Finset.range 1, (f i).toNat % 128 * 2 ^ (7 * i) = n := by
  have hbyte : (f 0).toNat = n := by rw [h, BitVec.toNat_ofNat]; omega
  exact ⟨⟨fun j hj => absurd hj j.not_lt_zero, hbyte.trans_lt hn⟩, by simp [hbyte, Nat.mod_eq_of_lt hn]⟩

/-- A sequence that begins with the base-128 groups of a number ends at the last of them, and their payloads sum up to
the number, if the groups suffice for it. -/
theorem base128_decodes (fuel n : Nat) (hn : n < 128 ^ (fuel + 1)) (f : Nat → Byte)
    (h : ∀ (i : Nat) (hi : i < (base128 fuel n).length), f i = (base128 fuel n)[i]) :
    ∃ k ≤ fuel, (base128 fuel n).length = k + 1 ∧ TerminatesAt f k ∧
      ∑ i ∈ Finset.range (k + 1), (f i).toNat % 128 * 2 ^ (7 * i) = n := by
  induction fuel generalizing n f with
  | zero =>
    have hsmall : n < 128 := by simpa using hn
    have hbyte : f 0 = BitVec.ofNat 8 (n % 128) := h 0 (by simp [base128])
    rw [Nat.mod_eq_of_lt hsmall] at hbyte
    exact ⟨0, le_rfl, rfl, terminatesAt_zero_of_lt hsmall hbyte⟩
  | succ fuel ih =>
    by_cases hsmall : n < 128
    · simp only [base128, if_pos hsmall] at h ⊢
      exact ⟨0, Nat.zero_le _, rfl, terminatesAt_zero_of_lt hsmall (h 0 Nat.one_pos)⟩
    · simp only [base128, if_neg hsmall] at h ⊢
      have hfirst : (f 0).toNat = 128 + n % 128 := by
        rw [h 0 (Nat.succ_pos _), List.getElem_cons_zero, BitVec.toNat_ofNat]
        omega
      have hrest : n / 128 < 128 ^ (fuel + 1) := Nat.div_lt_of_lt_mul (by rwa [← Nat.pow_succ'])
      obtain ⟨k, hk, hlen, hterm, hsum⟩ :=
        ih (n / 128) hrest (fun i => f (i + 1)) fun i hi => h (i + 1) (Nat.succ_lt_succ hi)
      refine ⟨k + 1, Nat.succ_le_succ hk, congrArg (· + 1) hlen, terminatesAt_succ (by omega) hterm, ?_⟩
      rw [payloads_succ, hsum, hfirst]
      omega

/-- A sequence that begins with the minimal varint of a pattern ends at its last byte, and its value is the pattern. -/
theorem minimalVarint_decodes {v : Word} {f : Nat → Byte}
    (h : ∀ (i : Nat) (hi : i < (minimalVarint v).length), f i = (minimalVarint v)[i]) :
    ∃ last : Fin 5, (minimalVarint v).length = last.val + 1 ∧ TerminatesAt f last.val ∧
      varintValue f last.val = v := by
  obtain ⟨k, hk, hlen, hterm, hsum⟩ := base128_decodes 4 v.toNat (v.isLt.trans (by decide)) f h
  exact ⟨⟨k, Nat.lt_succ_of_le hk⟩, hlen, hterm, by rw [varintValue, hsum, BitVec.ofNat_toNat, BitVec.setWidth_eq]⟩

/-- Settles O16: the encoder's bytes are a varint whose value is the pattern. -/
theorem minimalVarintRoundTrip : Obligations.MinimalVarintRoundTrip := by
  intro v L h
  obtain ⟨last, hlen, hterm, hvalue⟩ := minimalVarint_decodes h
  exact ⟨last, decodeLanes_eq_ok_iff.2 ⟨hterm, hvalue.symm⟩, hlen.symm⟩

end Sys2Proof.Machine
end

section
/-!
PROOFS. The request DECODE (40_decode_engine.md R420, 60_exceptions.md R702).
-/

namespace Sys2Proof.Machine

/-- Lane i of `LV_IN`, read by its number (R303). -/
theorem laneAt_unpackLanes (lv : LaneWord) {i : Nat} (hi : i < 8) :
    laneAt (unpackLanes lv) i = lv.extractLsb' (8 * i) 8 := laneAt_of_lt _ hi

/-- Settles O18: `DECODE` decodes the lanes of `LV_IN` and answers with them. -/
theorem decodeRequestReturnsValue : Obligations.DecodeRequestReturnsValue := by
  intro s o lv last hlast hterm
  obtain ⟨k, rfl⟩ : ∃ k : Fin 5, k.val = last := ⟨⟨last, Nat.lt_succ_of_le hlast⟩, rfl⟩
  have hdec : decodeLanes (unpackLanes lv) = .ok (varintValue (fun i => lv.extractLsb' (8 * i) 8) k.val) k :=
    decodeLanes_of_terminatesAt (f := fun i => lv.extractLsb' (8 * i) 8) hterm
  exact ⟨decodedRsp _ k lv, by rw [exec_decode, hdec]; rfl, decodedRsp_fields _ k lv⟩

/-- Settles O19: five continuing lanes are malformed. -/
theorem decodeRequestReportsMalformed : Obligations.DecodeRequestReportsMalformed := by
  intro s o lv hcont
  have hdec : decodeLanes (unpackLanes lv) = .malformed := by
    refine decodeLanes_eq_malformed_iff.2 fun j hj => ?_
    rw [laneAt_unpackLanes lv (by omega), ← continues_iff]
    exact hcont j hj
  exact ⟨errorRsp .malformed, by rw [exec_decode, hdec]; rfl, errorRsp_fields .malformed⟩

end Sys2Proof.Machine
end

section
/-!
PROOFS. The requests that load (41_load_and_read.md R500 to R505, R508, R510, R511; 20_memory.md R206, R207, R214): what each
of them answers, where the cursor goes, and how they are one another.
-/

namespace Sys2Proof.Machine

/-! ### The reads where a varint ends within five lanes -/

/-- Settles O20: the lanes loaded are the window's, and `LOAD` answers them. -/
theorem loadReturnsWindowLanes : Obligations.LoadReturnsWindowLanes := by
  intro s off lv hstill hin
  exact ⟨_, by rw [exec_load, withLoaded_of_in _ hstill hin], loadRsp_fields _⟩

/-- A length of at most five bytes, as `last` in the response (R402). -/
theorem exists_fin_of_le_four {last : Nat} (h : last ≤ 4) : ∃ k : Fin 5, k.val = last :=
  ⟨⟨last, Nat.lt_succ_of_le h⟩, rfl⟩

/-- Settles O21: `READ_AT` of a varint, and the fields of its response. -/
theorem readAtReturnsValue : Obligations.ReadAtReturnsValue := by
  intro s off lv last hstill hin hlast hterm
  obtain ⟨k, rfl⟩ := exists_fin_of_le_four hlast
  exact ⟨_, exec_readAt_of_terminatesAt lv hstill hin hterm, readRsp_fields _ _ k⟩

/-- Settles O22: `PEEK` of a varint, and the fields of its response. -/
theorem peekReturnsValueAtCursor : Obligations.PeekReturnsValueAtCursor := by
  intro s o lv last hstill hin hlast hterm
  obtain ⟨k, rfl⟩ := exists_fin_of_le_four hlast
  exact ⟨_, exec_peek_of_terminatesAt lv o hstill hin hterm, readRsp_fields _ _ k⟩

/-- Settles O23: `READ_ADV` of a varint, and the fields of its response. -/
theorem readAdvReturnsValueAndAdvances : Obligations.ReadAdvReturnsValueAndAdvances := by
  intro s o lv last hstill hin hlast hterm
  obtain ⟨k, rfl⟩ := exists_fin_of_le_four hlast
  exact ⟨_, exec_readAdv_of_terminatesAt lv o hstill hin hterm, readRsp_fields _ _ k⟩

/-! ### The reads that answer an error -/

/-- The status of an error response is not OK (R305, R306). -/
theorem errorRsp_status_ne_zero {st : Status} (h : st ≠ .ok) : ((errorRsp st).extractLsb' 0 2).toNat ≠ 0 := by
  obtain ⟨hstatus, -⟩ := errorRsp_fields st
  rw [hstatus]
  exact mt Status.code_toNat_eq_zero.1 h

/-- Five continuing lanes are malformed (R403). -/
theorem decodeLanes_of_continues {f : Nat → Byte} (h : ∀ j < 5, 128 ≤ (f j).toNat) :
    decodeLanes (fun i => f i.val) = .malformed := by
  refine decodeLanes_eq_malformed_iff.2 fun j hj => ?_
  rw [laneAt_of_lt _ (by omega)]
  exact h j hj

/-- Settles O24: the three reads complete a decode that is malformed. -/
theorem readsReportMalformed : Obligations.ReadsReportMalformed := by
  intro s off i hstill hi hin hcont
  refine ⟨errorRsp .malformed, ?_, errorRsp_fields .malformed⟩
  have hdec := decodeLanes_of_continues hcont
  rcases hi with ⟨lv, rfl⟩ | ⟨rfl, o, lv, rfl | rfl⟩ <;>
    simp only [exec_readAt, exec_peek, exec_readAdv, withLoaded_of_in _ hstill hin, hdec] <;> rfl

/-- An offset is out of range if it is negative or at least the readable length (R500). -/
theorem not_offsetIn_iff {off : Word} {len : Nat} : ¬ OffsetIn off len ↔ off.toInt < 0 ∨ (len : Int) ≤ off.toInt := by
  rw [not_and_or, Int.not_le, Int.not_lt]

/-- No offset is in range of an empty window (R508). -/
theorem not_offsetIn_zero (off : Word) : ¬ OffsetIn off 0 :=
  not_offsetIn_iff.2 (Int.lt_or_le off.toInt 0)

/-- Settles O25: the range check comes before the load. -/
theorem loadsOutOfRangeReportIt : Obligations.LoadsOutOfRangeReportIt := by
  intro s off i hload hout
  exact ⟨_, exec_of_out hload (not_offsetIn_iff.2 hout), errorRsp_fields .outOfRange⟩

/-- Where a request loads from does not depend on the window. -/
theorem loadsFrom_onWindow (i : Instr) (s : State) (w : Window) : loadsFrom i (s.onWindow w) = loadsFrom i s := by
  cases i <;> rfl

/-- Settles O26: the range check fails with either list of bytes. -/
theorem emptyWindowIsOutOfRange : Obligations.EmptyWindowIsOutOfRange := by
  intro s i off m hload hempty
  exact ⟨_, exec_of_out hload (hempty ▸ not_offsetIn_zero off), errorRsp_fields .outOfRange,
    exec_of_out ((loadsFrom_onWindow i s _).trans hload) (not_offsetIn_zero off)⟩

/-! ### The cursor -/

/-- A `READ_ADV` that answers OK was in range, answers a decoded varint and advances the cursor by its length, whatever the
host does meanwhile (R504, R706). -/
theorem exec_readAdv_of_ok {o : Word} {l : LaneWord} {s t : State} {r : RspWord} {rs : List RspWord}
    (h : exec (.readAdv o l) s = .next t) (hresp : t.engine.responses = r :: rs)
    (hok : (r.extractLsb' 0 2).toNat = 0) :
    OffsetIn s.engine.cursor s.engine.window.len ∧ ∃ v last lv, r = decodedRsp v last lv ∧
      t = (s.countDraws.answered r).atCursor (advanceCursor s.engine.cursor last) := by
  rw [exec_readAdv] at h
  rcases withLoaded_cases s.engine.cursor s with ⟨-, hout⟩ | ⟨hin, n, L, hload⟩
  · rw [hout] at h
    cases h
    obtain ⟨rfl, -⟩ := List.cons.inj hresp
    exact absurd hok (errorRsp_status_ne_zero (by decide))
  · rw [hload] at h
    rcases completeAdvance_cases (decodeLanes L) (packLanes L) s.countDraws with ⟨-, hmal⟩ | ⟨v, last, -, hadv⟩
    · rw [hmal] at h
      cases h
      obtain ⟨rfl, -⟩ := List.cons.inj hresp
      exact absurd hok (errorRsp_status_ne_zero (by decide))
    · rw [hadv, State.countDraws_engine] at h
      cases h
      obtain ⟨rfl, -⟩ := List.cons.inj hresp
      exact ⟨hin, v, last, _, rfl, rfl⟩

/-- The cursor after an advance, as a number (R505). -/
theorem advanceCursor_toNat (c : Word) (last : Fin 5) :
    (advanceCursor c last).toNat = (c.toNat + (last.val + 1)) % 2 ^ 32 := by
  simp [advanceCursor]

/-- An advance moves the cursor: by 1 to 5, which is not 0 modulo 2^32 (R504, R505). -/
theorem advanceCursor_ne (c : Word) (last : Fin 5) : advanceCursor c last ≠ c := by
  intro h
  have hnum := advanceCursor_toNat c last
  rw [h] at hnum
  omega

/-- An advance turns a nonnegative cursor negative only from within that many bytes of 2^31 - 1 (R505). -/
theorem lt_toInt_of_advanceCursor_neg {c : Word} {last : Fin 5} (hnonneg : 0 ≤ c.toInt)
    (hneg : (advanceCursor c last).toInt < 0) : 2 ^ 31 - 1 - ((last.val + 1 : Nat) : Int) < c.toInt := by
  rw [BitVec.toInt_eq_toNat_cond] at hnonneg ⊢
  rw [BitVec.toInt_eq_toNat_cond, advanceCursor_toNat] at hneg
  split at hneg <;> split at hnonneg <;> omega

/-- Settles O33: the advance as a number, and its sign. -/
theorem cursorAdvanceWraps : Obligations.CursorAdvanceWraps := by
  intro s t o lv r rs _ h hresp hok
  obtain ⟨hin, v, last, lv', rfl, rfl⟩ := exec_readAdv_of_ok h hresp hok
  obtain ⟨-, -, hconsumed, -⟩ := decodedRsp_fields v last lv'
  rw [hconsumed]
  refine ⟨hin, by omega, by omega, advanceCursor_toNat _ _, fun hneg => ?_⟩
  have hout : ¬ OffsetIn (advanceCursor s.engine.cursor last) s.countDraws.engine.window.len :=
    not_offsetIn_iff.2 (.inl hneg)
  exact ⟨lt_toInt_of_advanceCursor_neg hin.1 hneg, _, exec_of_out rfl hout, exec_of_out rfl hout,
    errorRsp_fields .outOfRange⟩

/-- Settles O40: the requests that write the cursor, and a `READ_ADV` that answers OK moves it. -/
theorem onlyTwoRequestsMoveCursor : Obligations.OnlyTwoRequestsMoveCursor := by
  intro i s t r rs h hresp
  constructor
  · intro hmoved
    obtain ⟨r', c, u, hexec, -, hc⟩ := exec_shape i s
    obtain rfl : (u.answered r').atCursor c = t := Host.Outcome.next.inj (hexec.symm.trans h)
    rcases hc with rfl | hset | ⟨o, l, v, last, lv, hadv, -, rfl⟩
    · exact absurd rfl hmoved
    · exact .inl hset
    · obtain ⟨rfl, -⟩ := List.cons.inj hresp
      obtain ⟨hstatus, -⟩ := decodedRsp_fields v last lv
      exact .inr ⟨⟨o, l, hadv⟩, hstatus⟩
  · rintro ⟨o, l, rfl⟩ hok
    obtain ⟨-, v, last, lv, -, rfl⟩ := exec_readAdv_of_ok h hresp hok
    exact advanceCursor_ne s.engine.cursor last

/-! ### Varints lying in the window -/

/-- A lane inside the window, as the byte the memory holds there (R206). -/
theorem laneFrom_of_lt {w : Window} {off : Word} {j : Nat} (h : off.toInt.toNat + j < w.len) :
    laneFrom w off j = w.bytes.read (off.toInt.toNat + j) := if_pos h

/-- A varint depends only on its own bytes: where it ends, and its value (R402, R409). -/
theorem varint_congr {f g : Nat → Byte} {k : Nat} (hk : k < 5) (h : ∀ j ≤ k, f j = g j) (hterm : TerminatesAt g k) :
    TerminatesAt f k ∧ varintValue f k = varintValue g k := by
  obtain ⟨hcont, hclear⟩ := hterm
  exact ⟨⟨fun j hj => h j hj.le ▸ hcont j hj, h k le_rfl ▸ hclear⟩,
    varintValue_congr hk fun b _ hle => by rw [h _ hle]⟩

/-- A `READ_ADV` at the start of a varint lying wholly in the window answers it and advances behind it (R504). -/
theorem exec_readAdv_of_bytes {s : State} {a : Nat} {k : Fin 5} (o : Word) (lv : LaneWord) (hstill : s.racing = none)
    (hcursor : s.engine.cursor.toInt = a) (hfit : a + (k.val + 1) ≤ s.engine.window.len)
    (hterm : TerminatesAt (fun i => s.engine.window.bytes.read (a + i)) k.val) :
    ∃ r, exec (.readAdv o lv) s =
        .next ((s.answered r).atCursor (s.engine.cursor + BitVec.ofNat 32 (k.val + 1))) ∧
      RspIs r 0 k.val (k.val + 1) (varintValue (fun i => s.engine.window.bytes.read (a + i)) k.val)
        (windowLane s.engine.window a) := by
  obtain rfl : s.engine.cursor.toInt.toNat = a := by omega
  have hin : OffsetIn s.engine.cursor s.engine.window.len := by constructor <;> omega
  obtain ⟨hterm', hvalue⟩ := varint_congr k.isLt (fun j hj => laneFrom_of_lt (by omega)) hterm
  exact ⟨_, exec_readAdv_of_terminatesAt lv o hstill hin hterm', hvalue ▸ readRsp_fields _ _ k⟩

/-- A nonnegative offset moved on by `n` reads as the sum while that is below 2^31 (R505). -/
theorem toInt_add_ofNat {off : Word} {a n : Nat} (h : off.toInt = a) (hlt : a + n < 2 ^ 31) :
    (off + BitVec.ofNat 32 n).toInt = ((a + n : Nat) : Int) := by
  rw [BitVec.toInt_eq_toNat_cond] at h ⊢
  rw [BitVec.toNat_add, BitVec.toNat_ofNat]
  split at h <;> split <;> omega

/-- Settles O34: two `READ_ADV`s, each at the start of its varint, and a cursor at the window's end is out of range. -/
theorem successiveReadsDecodeInOrder : Obligations.SuccessiveReadsDecodeInOrder := by
  intro s o lv k1 k2 hstill hwf hk1 hk2 hnonneg hfit hterm1 hterm2
  obtain ⟨(hlen : s.engine.window.len ≤ 2 ^ 31 - 1), -⟩ := hwf
  obtain ⟨k1, rfl⟩ := exists_fin_of_le_four hk1
  obtain ⟨k2, rfl⟩ := exists_fin_of_le_four hk2
  have hstart : s.engine.cursor.toInt = s.engine.cursor.toInt.toNat := (Int.toNat_of_nonneg hnonneg).symm
  have hsecond := toInt_add_ofNat (n := k1.val + 1) hstart (by omega)
  obtain ⟨r1, hread1, hfields1⟩ := exec_readAdv_of_bytes o lv hstill hstart (by omega) hterm1
  obtain ⟨r2, hread2, hfields2⟩ := exec_readAdv_of_bytes (k := k2)
    (s := (s.answered r1).atCursor (s.engine.cursor + BitVec.ofNat 32 (k1.val + 1))) o lv hstill hsecond hfit hterm2
  rw [State.atCursor_cursor, BitVec.add_assoc, ← BitVec.ofNat_add] at hread2
  refine ⟨r1, r2, _, _, hread1, hread2, rfl, rfl, hfields1, hfields2, fun hend => ?_⟩
  have hbehind := toInt_add_ofNat (n := k1.val + 1 + (k2.val + 1)) hstart (by omega)
  rw [← Nat.add_assoc s.engine.cursor.toInt.toNat, hend] at hbehind
  exact ⟨hbehind, _, exec_of_out rfl (not_offsetIn_iff.2 (.inr hbehind.ge)), errorRsp_fields .outOfRange⟩

/-- A byte that can be read is that lane of the load (R206). -/
theorem laneFrom_of_read? {w : Window} {off : Word} {j : Nat} {b : Byte}
    (h : w.read? (off.toInt.toNat + j) = some b) : off.toInt.toNat + j < w.len ∧ laneFrom w off j = b := by
  have hlt : off.toInt.toNat + j < w.len := by
    by_contra hge
    rw [Window.read?_of_ge (Nat.not_lt.1 hge)] at h
    cases h
  exact ⟨hlt, Option.some.inj ((read?_of_laneFrom_lt hlt).symm.trans h)⟩

/-- Settles O35: the lanes begin with the encoder's bytes, a varint whose value is the pattern. -/
theorem readAtRoundTrip : Obligations.ReadAtRoundTrip := by
  intro s off lv v hstill ⟨hnonneg, hbytes⟩
  obtain ⟨last, hlen, hterm, hvalue⟩ := minimalVarint_decodes fun i hi => (laneFrom_of_read? (hbytes i hi)).2
  obtain ⟨hfirst, -⟩ := laneFrom_of_read? (hbytes 0 (by omega))
  have hin : OffsetIn off s.engine.window.len := ⟨hnonneg, by omega⟩
  have hfields := readRsp_fields s.engine.window off last
  rw [hvalue] at hfields
  rw [hlen, Nat.add_sub_cancel]
  exact ⟨_, exec_readAt_of_terminatesAt lv hstill hin hterm, hfields⟩

/-! ### The reads in terms of one another -/

/-- `t` with the cursor moved on from `c` by the `CONSUMED` of the response `r`, if its status is OK (R504, R706). -/
def State.advancedBy (t : State) (c : Word) (r : RspWord) : State :=
  if (r.extractLsb' 0 2).toNat = 0 then t.atCursor (c + (r.extractLsb' 5 3).zeroExtend 32) else t

/-- An error does not move the cursor (R706). -/
theorem State.advancedBy_errorRsp (t : State) (c : Word) {st : Status} (h : st ≠ .ok) :
    t.advancedBy c (errorRsp st) = t := if_neg (errorRsp_status_ne_zero h)

/-- The `CONSUMED` of a decoded varint moves the cursor as `READ_ADV` does (R408, R504). -/
theorem State.advancedBy_decodedRsp (t : State) (c v : Word) (last : Fin 5) (lv : LaneWord) :
    t.advancedBy c (decodedRsp v last lv) = t.atCursor (advanceCursor c last) := by
  obtain ⟨hstatus, -, hconsumed, -⟩ := decodedRsp_fields v last lv
  rw [advanceCursor, ← hconsumed, BitVec.ofNat_toNat]
  exact if_pos hstatus

/-- An advancing decode completes as a decode does, then the cursor moves (R504). -/
theorem completeAdvance_of_completeDecode {x : DecodeResult} {lv : LaneWord} {s t : State} {r : RspWord}
    {rs : List RspWord} (h : completeDecode x lv s = .next t) (hresp : t.engine.responses = r :: rs) :
    completeAdvance x lv s = .next (t.advancedBy s.engine.cursor r) := by
  cases x with
  | malformed =>
    cases h
    obtain ⟨rfl, -⟩ := List.cons.inj hresp
    rw [State.advancedBy_errorRsp _ _ (by decide)]
    rfl
  | ok v last =>
    cases h
    obtain ⟨rfl, -⟩ := List.cons.inj hresp
    rw [State.advancedBy_decodedRsp]
    rfl

/-- `READ_ADV` is `READ_AT` at the cursor, then the advance (R504). -/
theorem exec_readAdv_of_readAt {s t : State} {o : Word} {l l' : LaneWord} {r : RspWord} {rs : List RspWord}
    (h : exec (.readAt s.engine.cursor l') s = .next t) (hresp : t.engine.responses = r :: rs) :
    exec (.readAdv o l) s = .next (t.advancedBy s.engine.cursor r) := by
  rw [exec_readAt] at h
  rw [exec_readAdv]
  rcases withLoaded_cases s.engine.cursor s with ⟨-, hout⟩ | ⟨-, n, L, hload⟩
  · rw [hout] at h ⊢
    cases h
    obtain ⟨rfl, -⟩ := List.cons.inj hresp
    rw [State.advancedBy_errorRsp _ _ (by decide)]
  · rw [hload] at h ⊢
    simpa only [State.countDraws_engine] using completeAdvance_of_completeDecode h hresp

/-- Settles O36: both requests load at the cursor and complete the decode that `READ_AT` completes. -/
theorem cursorReadsAreReadAtCursor : Obligations.CursorReadsAreReadAtCursor :=
  ⟨fun s o l l' => (exec_peek o l s).trans (exec_readAt _ l' s).symm, fun _ _ _ _ _ _ _ => exec_readAdv_of_readAt⟩

/-- Settles O37: unpacking the lanes that `LOAD` packed gives the lanes that `READ_AT` decodes. -/
theorem readAtIsDecodeOfLoad : Obligations.ReadAtIsDecodeOfLoad := by
  intro s t off o l l' r h hresp hok
  rw [exec_load] at h
  rcases withLoaded_cases off s with ⟨-, hout⟩ | ⟨-, n, L, hload⟩
  · rw [hout] at h
    cases h
    obtain ⟨rfl, -⟩ := List.cons.inj hresp
    exact absurd hok (errorRsp_status_ne_zero (by decide))
  · rw [hload] at h
    cases h
    obtain ⟨rfl, -⟩ := List.cons.inj hresp
    rw [packRsp_lvOut, exec_decode, unpackLanes_packLanes, exec_readAt, hload, ← State.countDraws_engine s]
    cases decodeLanes L with
    | malformed => exact ⟨_, rfl, rfl⟩
    | ok v last => exact ⟨_, rfl, rfl⟩

end Sys2Proof.Machine
end

section
/-!
PROOFS. The requests that access the cursor (42_cursor_access.md R600, R601).
-/

namespace Sys2Proof.Machine

/-- The fields of an OK response that carries a value and nothing else (R304, R600, R601). -/
theorem valueRsp_fields (v : Word) : RspIs (packRsp .ok v 0#3 0#3 0#64) 0 0 0 v (fun _ => 0x00#8) := by
  obtain ⟨hstatus, hlast, hconsumed, hrsv, hvalue, hlanes⟩ := packRsp_fields .ok v 0#3 0#3 0#64
  exact ⟨hstatus, hlast, hconsumed, hrsv, hvalue, fun i hi => (hlanes i hi).trans BitVec.extractLsb'_zero⟩

/-- Settles O27: the control word is the row's, and the response carries the value zero. -/
theorem setCursorWritesOffset : Obligations.SetCursorWritesOffset :=
  ⟨fun _ hctl => decodeReq_eq_of_fields rfl hctl rfl rfl,
    fun s off lv => ⟨_, exec_setCursor off lv s, valueRsp_fields 0#32⟩⟩

/-- Settles O28: the control word is the row's, and the response carries the cursor. -/
theorem getCursorReturnsCursor : Obligations.GetCursorReturnsCursor :=
  ⟨fun _ hctl => decodeReq_eq_of_fields rfl hctl rfl rfl,
    fun s o lv => ⟨_, exec_getCursor o lv s, valueRsp_fields _⟩⟩

end Sys2Proof.Machine
end

section
/-!
PROOFS. Errors (60_exceptions.md R700 to R707): which status a request reports, and that an error writes no state and
repeats.
-/

namespace Sys2Proof.Machine

/-- Settles O29: the word decodes to the reserved row, and the reserved row answers `IllegalRequest`. -/
theorem illegalRequestReportsIt : Obligations.IllegalRequestReportsIt := by
  constructor
  · intro s req hill
    obtain ⟨hdec, -⟩ := decodeSelectsByControlWord req
    exact ⟨_, by rw [hdec hill.symm, exec_illegal], errorRsp_fields .illegalRequest⟩
  · intro s ctl o lv _
    exact ⟨_, exec_illegal ctl o lv s, errorRsp_fields .illegalRequest⟩

/-! ### Which status a request reports -/

/-- The request, if it loads, loads at an offset in range at its start (R500). -/
abbrev StartsInRange (i : Instr) (s : State) : Prop :=
  ∀ off, loadsFrom i s = some off → OffsetIn off s.engine.window.len

/-- A load in range goes on with some lanes, which are the window's if the host leaves it alone (R206, R214). -/
theorem withLoaded_lanes {off : Word} {s : State} (hin : OffsetIn off s.engine.window.len) :
    ∃ n L, (s.racing = none → L = fun j : Fin 8 => laneFrom s.engine.window off j.val) ∧
      ∀ k, withLoaded off s k = k n L s.countDraws := by
  cases hrace : s.racing with
  | none => exact ⟨_, _, fun _ => rfl, fun k =>
      (withLoaded_of_in k hrace hin).trans (by rw [State.countDraws_of_still s hrace])⟩
  | some w => exact ⟨_, _, nofun, fun k => withLoaded_of_racing k hrace hin⟩

/-- A decoding request that starts in range completes a `Decode`, of the lanes of R702 if the host leaves the window alone
(R420, R502 to R504). -/
theorem exec_of_decodesLanes {i : Instr} {s : State} {lane : Nat → Byte} (hdec : decodesLanes i s = some lane)
    (hin : StartsInRange i s) :
    ∃ L lv u, (s.racing = none → L = fun j : Fin 8 => lane j.val) ∧
      (exec i s = completeDecode (decodeLanes L) lv u ∨ exec i s = completeAdvance (decodeLanes L) lv u) := by
  cases i with
  | decode o l =>
    cases hdec
    exact ⟨_, _, _, fun _ => rfl, .inl (exec_decode o l s)⟩
  | readAt o l =>
    cases hdec
    obtain ⟨n, L, hL, hload⟩ := withLoaded_lanes (hin _ rfl)
    exact ⟨L, _, _, hL, .inl ((exec_readAt o l s).trans (hload _))⟩
  | peek o l =>
    cases hdec
    obtain ⟨n, L, hL, hload⟩ := withLoaded_lanes (hin _ rfl)
    exact ⟨L, _, _, hL, .inl ((exec_peek o l s).trans (hload _))⟩
  | readAdv o l =>
    cases hdec
    obtain ⟨n, L, hL, hload⟩ := withLoaded_lanes (hin _ rfl)
    exact ⟨L, _, _, hL, .inr ((exec_readAdv o l s).trans (hload _))⟩
  | load o l => cases hdec
  | setCursor o l => cases hdec
  | getCursor o l => cases hdec
  | illegal c o l => cases hdec

section Reported
variable {i : Instr} {s t : State} {r : RspWord} {rs : List RspWord}

/-- A completed decode reports status 2 where `Decode` is malformed, and else status 0 (R702, R704). -/
theorem completed_status {x : DecodeResult} {lv : LaneWord}
    (h : completeDecode x lv s = .next t ∨ completeAdvance x lv s = .next t) (hresp : t.engine.responses = r :: rs) :
    (x = .malformed ∧ (r.extractLsb' 0 2).toNat = 2) ∨ (x ≠ .malformed ∧ (r.extractLsb' 0 2).toNat = 0) := by
  cases x with
  | malformed =>
    have hrsp : t.engine.responses = errorRsp .malformed :: s.engine.responses := by
      rcases h with h | h <;> cases h <;> rfl
    obtain ⟨rfl, -⟩ := List.cons.inj (hresp.symm.trans hrsp)
    obtain ⟨hstatus, -⟩ := errorRsp_fields .malformed
    exact .inl ⟨rfl, hstatus⟩
  | ok v last =>
    have hrsp : t.engine.responses = decodedRsp v last lv :: s.engine.responses := by
      rcases h with h | h <;> cases h <;> rfl
    obtain ⟨rfl, -⟩ := List.cons.inj (hresp.symm.trans hrsp)
    obtain ⟨hstatus, -⟩ := decodedRsp_fields v last lv
    exact .inr ⟨nofun, hstatus⟩

/-- The lanes `0..4` of a request all continue exactly where `Decode` of them is malformed (R403). -/
theorem decodeLanes_malformed_iff_continues {lane : Nat → Byte} :
    decodeLanes (fun j => lane j.val) = .malformed ↔ ∀ j : Nat, j < 5 → 128 ≤ (lane j).toNat :=
  ⟨continues_of_decodeLanes_malformed, decodeLanes_of_continues⟩

/-- A decoding request that starts in range reports status 2 or 0, and, the host leaving the window alone, status 2 exactly
where its lanes `0..4` all continue (R702, R704). -/
theorem status_of_decodesLanes {lane : Nat → Byte} (hdec : decodesLanes i s = some lane) (hin : StartsInRange i s)
    (h : exec i s = .next t) (hresp : t.engine.responses = r :: rs) :
    ((r.extractLsb' 0 2).toNat = 2 ∨ (r.extractLsb' 0 2).toNat = 0) ∧
      (s.racing = none → ((r.extractLsb' 0 2).toNat = 2 ↔ ∀ j : Nat, j < 5 → 128 ≤ (lane j).toNat)) := by
  obtain ⟨L, lv, u, hL, hexec⟩ := exec_of_decodesLanes hdec hin
  rw [h] at hexec
  have hcases := completed_status (hexec.imp Eq.symm Eq.symm) hresp
  refine ⟨hcases.imp And.right And.right, fun hstill => ?_⟩
  rw [← decodeLanes_malformed_iff_continues, ← hL hstill]
  rcases hcases with ⟨hmal, hstatus⟩ | ⟨hok, hstatus⟩
  · exact iff_of_true hstatus hmal
  · exact iff_of_false (by omega) hok

/-- A request that decodes nothing, starts in range and is not illegal reports OK (R501, R600, R601). -/
theorem status_of_decodesLanes_none (hdec : decodesLanes i s = none) (hin : StartsInRange i s)
    (hlegal : ¬ ∃ c o l, i = .illegal c o l) (h : exec i s = .next t) (hresp : t.engine.responses = r :: rs) :
    (r.extractLsb' 0 2).toNat = 0 := by
  have hpacked : ∀ v lv, r = packRsp .ok v 0#3 0#3 lv → (r.extractLsb' 0 2).toNat = 0 := by
    rintro v lv rfl
    obtain ⟨hstatus, -⟩ := packRsp_fields .ok v 0#3 0#3 lv
    exact hstatus
  cases i with
  | load o l =>
    obtain ⟨n, L, -, hload⟩ := withLoaded_lanes (hin _ rfl)
    rw [exec_load, hload] at h
    cases h
    exact hpacked _ _ (List.cons.inj hresp).1.symm
  | setCursor o l => cases h; exact hpacked _ _ (List.cons.inj hresp).1.symm
  | getCursor o l => cases h; exact hpacked _ _ (List.cons.inj hresp).1.symm
  | illegal c o l => exact absurd ⟨c, o, l, rfl⟩ hlegal
  | decode o l => cases hdec
  | readAt o l => cases hdec
  | peek o l => cases hdec
  | readAdv o l => cases hdec

end Reported

/-- Settles O41, cause by cause in the order of R705. -/
theorem statusIsFirstCauseThatApplies : Obligations.StatusIsFirstCauseThatApplies := by
  intro i s t r rs h hresp
  by_cases hill : ∃ c o l, i = .illegal c o l
  · obtain ⟨c, o, l, rfl⟩ := hill
    have hstatus : (r.extractLsb' 0 2).toNat = 3 := by
      cases h
      obtain ⟨rfl, -⟩ := List.cons.inj hresp
      exact (errorRsp_fields .illegalRequest).1
    simp [hstatus, loadsFrom, decodesLanes]
  by_cases hin : StartsInRange i s
  · have hnotOut : ¬ ∃ off, loadsFrom i s = some off ∧ ¬ OffsetIn off s.engine.window.len :=
      fun ⟨off, hoff, hout⟩ => hout (hin off hoff)
    cases hdec : decodesLanes i s with
    | none =>
      have hstatus := status_of_decodesLanes_none hdec hin hill h hresp
      exact ⟨iff_of_false (by omega) hill, iff_of_false (by omega) hnotOut,
        fun _ => iff_of_false (by omega) (by rintro ⟨-, _, ⟨⟩, -⟩), fun h => by omega⟩
    | some lane =>
      obtain ⟨hstatus, hmal⟩ := status_of_decodesLanes hdec hin h hresp
      refine ⟨iff_of_false (by omega) hill, iff_of_false (by omega) hnotOut, fun hstill => ?_, fun _ => ⟨hin, rfl⟩⟩
      exact (hmal hstill).trans ⟨fun hcont => ⟨hin, lane, rfl, hcont⟩, by rintro ⟨-, _, ⟨⟩, hcont⟩; exact hcont⟩
  · obtain ⟨off, hoff, hout⟩ : ∃ off, loadsFrom i s = some off ∧ ¬ OffsetIn off s.engine.window.len := by
      simpa only [not_forall, exists_prop] using hin
    have hstatus : (r.extractLsb' 0 2).toNat = 1 := by
      rw [exec_of_out hoff hout] at h
      cases h
      obtain ⟨rfl, -⟩ := List.cons.inj hresp
      exact (errorRsp_fields .outOfRange).1
    exact ⟨iff_of_false (by omega) hill, iff_of_true hstatus ⟨off, hoff, hout⟩,
      fun _ => iff_of_false (by omega) fun h => hin h.1, fun h => by omega⟩

/-! ### What an error leaves unchanged -/

/-- An error leaves the cursor as it is: the requests that move it answer OK (R511, R706). -/
theorem exec_cursor_of_error {i : Instr} {s t : State} {r : RspWord} {rs : List RspWord} (h : exec i s = .next t)
    (hresp : t.engine.responses = r :: rs) (herr : (r.extractLsb' 0 2).toNat ≠ 0) :
    t.engine.cursor = s.engine.cursor := by
  by_contra hmoved
  rcases (onlyTwoRequestsMoveCursor i s t r rs h hresp).1 hmoved with ⟨l, hset⟩ | ⟨-, hok⟩
  · generalize t.engine.cursor = c at hset
    subst hset
    cases h
    obtain ⟨rfl, -⟩ := List.cons.inj hresp
    exact herr (valueRsp_fields 0#32).1
  · exact herr hok

/-- A request during which the host leaves the window alone changes nothing but the responses and the cursor. -/
theorem exec_eq_of_still {i : Instr} {s t : State} {r : RspWord} {rs : List RspWord} (hstill : s.racing = none)
    (h : exec i s = .next t) (hresp : t.engine.responses = r :: rs) : t = (s.answered r).atCursor t.engine.cursor := by
  obtain ⟨r', c, u, hexec, hu, -⟩ := exec_shape i s
  obtain rfl : u = s := hu.elim id fun hu => hu.trans (State.countDraws_of_still s hstill)
  obtain rfl : (u.answered r').atCursor c = t := Host.Outcome.next.inj (hexec.symm.trans h)
  obtain ⟨rfl, -⟩ := List.cons.inj hresp
  rfl

/-- Settles O43: the frame of a request, and an error does not move the cursor. -/
theorem errorWritesNoState : Obligations.ErrorWritesNoState := by
  intro i s t r rs h hresp herr
  have hcursor := exec_cursor_of_error h hresp herr
  obtain ⟨hwin, -⟩ := exec_frame h
  exact ⟨hcursor, hwin, fun hstill =>
    (exec_eq_of_still hstill h hresp).trans (congrArg (s.answered r).atCursor hcursor)⟩

/-! ### Errors are deterministic -/

/-- Different statuses have different codes (R305). -/
theorem Status.code_toNat_injective {st st' : Status} (h : st.code.toNat = st'.code.toNat) : st = st' := by
  revert h
  cases st <;> cases st' <;> decide

/-- A response whose status is not OK is the error response of that status (R306). -/
theorem exists_eq_errorRsp {i : Instr} {s t : State} {r : RspWord} {rs : List RspWord} (h : exec i s = .next t)
    (hresp : t.engine.responses = r :: rs) (herr : (r.extractLsb' 0 2).toNat ≠ 0) : ∃ st, r = errorRsp st := by
  obtain ⟨r', hresp', hcase⟩ := exec_answersOr h
  obtain ⟨rfl, -⟩ := List.cons.inj (hresp.symm.trans hresp')
  rcases hcase with ⟨st, -, rfl⟩ | hok
  · exact ⟨st, rfl⟩
  · obtain ⟨v, last, consumed, lv, rfl⟩ := hok.exists_eq_packRsp
    obtain ⟨hstatus, -⟩ := packRsp_fields .ok v last consumed lv
    exact absurd hstatus herr

/-- An error response is fixed by its status (R306). -/
theorem errorRsp_eq_of_status {st st' : Status}
    (h : ((errorRsp st').extractLsb' 0 2).toNat = ((errorRsp st).extractLsb' 0 2).toNat) : errorRsp st' = errorRsp st := by
  obtain ⟨hst, -⟩ := errorRsp_fields st
  obtain ⟨hst', -⟩ := errorRsp_fields st'
  rw [Status.code_toNat_injective (hst'.symm.trans (h.trans hst))]

section SameCursorAndWindow
variable {s u : State} (hcursor : u.engine.cursor = s.engine.cursor) (hwin : u.engine.window = s.engine.window)

include hcursor in
/-- Where a request loads from depends on the cursor alone. -/
theorem loadsFrom_congr (i : Instr) : loadsFrom i u = loadsFrom i s := by
  cases i <;> simp only [loadsFrom, hcursor]

include hcursor hwin in
/-- The lanes a request decodes depend on the cursor and the window alone (R414). -/
theorem decodesLanes_congr (i : Instr) : decodesLanes i u = decodesLanes i s := by
  cases i <;> simp only [decodesLanes, hcursor, hwin]

include hcursor hwin in
/-- The status a request reports depends on the cursor and the window alone (R705, R707). -/
theorem status_congr {i : Instr} {t t' : State} {r r' : RspWord} {rs rs' : List RspWord} (hs : s.racing = none)
    (hu : u.racing = none) (h : exec i s = .next t) (hresp : t.engine.responses = r :: rs) (h' : exec i u = .next t')
    (hresp' : t'.engine.responses = r' :: rs') : (r'.extractLsb' 0 2).toNat = (r.extractLsb' 0 2).toNat := by
  obtain ⟨hill, hout, hmal, -⟩ := statusIsFirstCauseThatApplies i s t r rs h hresp
  obtain ⟨hill', hout', hmal', -⟩ := statusIsFirstCauseThatApplies i u t' r' rs' h' hresp'
  rw [loadsFrom_congr hcursor, hwin] at hout' hmal'
  rw [decodesLanes_congr hcursor hwin] at hmal'
  have h3 := hill'.trans hill.symm
  have h1 := hout'.trans hout.symm
  have h2 := (hmal' hu).trans (hmal hs).symm
  have hlt := (r.extractLsb' 0 2).isLt
  have hlt' := (r'.extractLsb' 0 2).isLt
  omega

end SameCursorAndWindow

/-- Settles O44: the status is the same, it fixes the response, and an error changes nothing else. -/
theorem errorRepeats : Obligations.ErrorRepeats := by
  intro i s t u r rs hs hu h hresp herr hcursor hwin
  obtain ⟨t', r', h', hresp'⟩ := exec_answers i u
  have hstatus := status_congr hcursor hwin hs hu h hresp h' hresp'
  have herr' : (r'.extractLsb' 0 2).toNat ≠ 0 := hstatus ▸ herr
  obtain ⟨st, rfl⟩ := exists_eq_errorRsp h hresp herr
  obtain ⟨st', rfl⟩ := exists_eq_errorRsp h' hresp' herr'
  obtain ⟨-, -, honly⟩ := errorWritesNoState i u t' _ _ h' hresp' herr'
  rw [h', honly hu, errorRsp_eq_of_status hstatus]

end Sys2Proof.Machine
end

section
/-!
PROOFS. Instances share no writable state (60_exceptions.md R714, 20_memory.md R215): no action but the host's turn
to another instance sees or changes the others, and the turn swaps two.
-/

namespace Sys2Proof.Machine

/-! ### No request sees the other instances -/

/-- `s` with other instances beside the one in front. -/
def State.withOthers (s : State) (es : List Engine) : State := { s with others := es }

section OtherInstances
variable {s t : State} {es : List Engine}

/-- The free values a load counts do not depend on the other instances (log 8). -/
theorem State.countDraws_withOthers : (s.withOthers es).countDraws = s.countDraws.withOthers es := by
  cases hrace : s.racing with
  | none => rw [State.countDraws_of_still s hrace, State.countDraws_of_still (s.withOthers es) hrace]
  | some w =>
    rw [State.countDraws_of_racing hrace, State.countDraws_of_racing (s := s.withOthers es) hrace]
    rfl

/-- Completing a decode does not see the other instances. -/
theorem completeDecode_withOthers {x : DecodeResult} {lv : LaneWord} (h : completeDecode x lv s = .next t) :
    completeDecode x lv (s.withOthers es) = .next (t.withOthers es) := by
  cases x with
  | malformed => cases h; rfl
  | ok v last => cases h; rfl

/-- Completing an advancing decode does not see the other instances. -/
theorem completeAdvance_withOthers {x : DecodeResult} {lv : LaneWord} (h : completeAdvance x lv s = .next t) :
    completeAdvance x lv (s.withOthers es) = .next (t.withOthers es) := by
  cases x with
  | malformed => cases h; rfl
  | ok v last => cases h; rfl

/-- A load does not see the other instances, if what it goes on with does not. -/
theorem withLoaded_withOthers {off : Word} {k : Nat → Lanes → State → StepOutcome}
    (hk : ∀ n L u, k n L u = .next t → k n L (u.withOthers es) = .next (t.withOthers es))
    (h : withLoaded off s k = .next t) : withLoaded off (s.withOthers es) k = .next (t.withOthers es) := by
  by_cases hin : OffsetIn off s.engine.window.len
  · cases hrace : s.racing with
    | none =>
      rw [withLoaded_of_in k hrace hin] at h
      exact (withLoaded_of_in (s := s.withOthers es) k hrace hin).trans (hk _ _ _ h)
    | some w =>
      rw [withLoaded_of_racing k hrace hin] at h
      rw [withLoaded_of_racing (s := s.withOthers es) k hrace hin, State.countDraws_withOthers]
      exact hk _ _ _ h
  · rw [withLoaded_of_out k hin] at h
    cases h
    exact withLoaded_of_out (s := s.withOthers es) k hin

/-- A request gives the same whatever the other instances hold (R714). -/
theorem exec_withOthers {i : Instr} (h : exec i s = .next t) : exec i (s.withOthers es) = .next (t.withOthers es) := by
  cases i with
  | decode o l => exact completeDecode_withOthers h
  | load o l =>
    rw [exec_load] at h ⊢
    exact withLoaded_withOthers (fun n L u hu => by cases hu; rfl) h
  | readAt o l =>
    rw [exec_readAt] at h ⊢
    exact withLoaded_withOthers (fun n L u => completeDecode_withOthers) h
  | peek o l =>
    rw [exec_peek] at h ⊢
    exact withLoaded_withOthers (fun n L u => completeDecode_withOthers) h
  | readAdv o l =>
    rw [exec_readAdv] at h ⊢
    exact withLoaded_withOthers (fun n L u => completeAdvance_withOthers) h
  | setCursor o l => cases h; rfl
  | getCursor o l => cases h; rfl
  | illegal c o l => cases h; rfl

/-! ### The host's actions -/

/-- A host action but turning to another instance gives the same whatever the other instances hold (R714). -/
theorem hostAct_withOthers {a : HostAction} (ha : ∀ k, a ≠ .selectEngine k) (h : hostAct a s = .next t) :
    hostAct a (s.withOthers es) = .next (t.withOthers es) := by
  cases a with
  | present req =>
    obtain ⟨hrel, hexec⟩ := present_eq_next h
    exact (present_of_released (s := s.withOthers es) hrel).trans (exec_withOthers hexec)
  | presentRacing req len cells =>
    obtain ⟨w, u, hw, hrel, hexec, rfl⟩ := presentRacing_eq_next h
    exact (presentRacing_of_released (s := s.withOthers es) hw hrel).trans
      (congrArg (settle w) (exec_withOthers hexec))
  | setWindow len cells =>
    obtain ⟨w, hw, rfl⟩ := setWindow_eq_next h
    simp only [hostAct, setWindow, hw]
    rfl
  | selectEngine k => exact absurd rfl (ha k)
  | assertReset => cases h; rfl
  | releaseReset => cases h; rfl

/-- A step but the turn to another instance gives the same whatever the other instances hold. -/
theorem step_withOthers (hturn : ∀ k rest, s.host ≠ .selectEngine k :: rest) (h : step s = .next t) :
    step (s.withOthers es) = .next (t.withOthers es) := by
  cases hhost : s.host with
  | nil =>
    rw [step_of_host_nil hhost] at h
    cases h
    exact step_of_host_nil hhost
  | cons a rest =>
    rw [step_of_host_cons hhost] at h
    have ha : ∀ k, a ≠ .selectEngine k := by
      rintro k rfl
      exact hturn k rest hhost
    exact (step_of_host_cons (s := s.withOthers es) hhost).trans (hostAct_withOthers ha h)

/-- A step but the turn to another instance leaves the other instances as they are: run with the instances there were, it
gives the same. -/
theorem step_others (hturn : ∀ k rest, s.host ≠ .selectEngine k :: rest) (h : step s = .next t) :
    t.others = s.others := by
  have hsame : t = t.withOthers s.others := Host.Outcome.next.inj (h.symm.trans (step_withOthers hturn h))
  calc t.others = (t.withOthers s.others).others := congrArg State.others hsame
    _ = s.others := rfl

end OtherInstances

/-- Settles O56: no step but the turn sees the other instances, and the turn swaps two. -/
theorem instancesAreIsolated : Obligations.InstancesAreIsolated := by
  intro s t hstep
  refine ⟨?_, fun hturn => ⟨step_others hturn hstep, fun es => step_withOthers hturn hstep⟩⟩
  by_cases hturn : ∃ k rest, s.host = .selectEngine k :: rest
  · obtain ⟨k, rest, hhost⟩ := hturn
    rw [step_of_host_cons hhost] at hstep
    obtain ⟨e, -, rfl⟩ := selectEngine_eq_next hstep
    exact List.length_set
  · exact congrArg List.length (step_others (fun k rest hhost => hturn ⟨k, rest, hhost⟩) hstep)

/-! ### Turning to another instance -/

/-- A step that turns to an instance the platform has puts it in front and the one in front in its place (R714). -/
theorem step_of_selectEngine {s : State} {k : Nat} {rest : List HostAction} {e : Engine}
    (hhost : s.host = .selectEngine k :: rest) (he : s.others[k]? = some e) :
    step s = .next { s with host := rest, engine := e, others := s.others.set k s.engine } := by
  rw [step_of_host_cons hhost]
  simp only [hostAct, selectEngine, he]

/-- Settles O57: the second turn finds the first instance where the first turn put it. -/
theorem selectEngineKeepsEveryInstance : Obligations.SelectEngineKeepsEveryInstance := by
  intro s k rest hhost hk
  have he : s.others[k]? = some s.others[k] := List.getElem?_eq_getElem hk
  have hleft : (s.others.set k s.engine)[k]? = some s.engine := List.getElem?_set_self hk
  have hback : (s.others.set k s.engine).set k s.others[k] = s.others := by
    rw [List.set_set, List.set_getElem_self]
  refine ⟨_, step_of_selectEngine hhost he, he, hleft, fun j hj => List.getElem?_set_ne hj.symm, ?_⟩
  rw [step_of_selectEngine rfl hleft]
  simp only [hback]

end Sys2Proof.Machine
end

section
/-!
PROOFS. Reset: what it leaves (70_reset_and_hazards.md R800; 10_state.md R100), and that it holds off requests and
nothing else stops the machine by a fault (R801; 20_memory.md R206).
-/

namespace Sys2Proof.Machine

/-! ### The state after reset -/

/-- Every instance beside the one in front is at its reset state after reset (R800, R714). -/
theorem State.eq_of_mem_reset_others {e : Engine} (h : e ∈ State.reset.others) : e = Engine.reset :=
  List.eq_of_mem_replicate h

/-- After reset a property of the empty window is one of every instance's window (log 5). -/
theorem State.reset_allWindows {P : Window → Prop} (h : P Window.empty) : State.reset.AllWindows P := by
  refine ⟨h, fun e he => ?_⟩
  rw [State.eq_of_mem_reset_others he]
  exact h

/-- The empty window is one the spec allows. -/
theorem Window.empty_wf : Window.empty.wf :=
  ⟨Nat.zero_le _, ⟨List.Pairwise.nil, List.forall_mem_nil _⟩, List.forall_mem_nil _⟩

/-- Settles O47: the fields of the reset state, and the instances beside the one in front are copies of it. -/
theorem resetLeavesCursorZero : Obligations.ResetLeavesCursorZero :=
  ⟨rfl, rfl, rfl, rfl, rfl, rfl, fun _ he => State.eq_of_mem_reset_others he,
    congrArg (· + 1) List.length_replicate⟩

/-- Settles O48: the windows are all empty, and the host has no action left. -/
theorem invariantHoldsAtReset : Obligations.InvariantHoldsAtReset := by
  obtain ⟨hfront, hothers⟩ : State.reset.AllWindows (·.len ≤ Config.maxSrcLen.val) :=
    State.reset_allWindows (Nat.zero_le _)
  exact ⟨State.reset.inv_iff.2 ⟨rfl, State.reset_allWindows Window.empty_wf⟩,
    hfront, hothers, List.forall_mem_nil _⟩

/-! ### Every request completes -/

/-- Settles O38: the shape of every request has one response. -/
theorem everyRequestAnswersOnce : Obligations.EveryRequestAnswersOnce := exec_answers

/-- No request faults: none reads a byte outside the window (R206). -/
theorem exec_ne_fault (i : Instr) (s : State) (f : Fault) : exec i s ≠ .fault f := by
  obtain ⟨t, -, hexec, -⟩ := exec_answers i s
  simp [hexec]

/-! ### A request presented in reset -/

/-- A request presented in reset is not accepted (R801, log 10). -/
theorem present_of_inReset {req : ReqWord} {s : State} (h : s.engine.inReset = true) :
    present req s = .fault .requestDuringReset := by
  simp [present, h]

/-- A request presented in reset is not accepted either if the host would change the window meanwhile (R801). -/
theorem presentRacing_of_inReset {req : ReqWord} {len : Nat} {cells : List Host.Cell} {s : State} {w : Window}
    (hw : Window.ofCells len cells = some w) (h : s.engine.inReset = true) :
    presentRacing req len cells s = .fault .requestDuringReset := by
  simp [presentRacing, hw, h]

/-- A request presented out of reset completes with one response (R801, R807). -/
theorem step_answers_of_present {req : ReqWord} {rest : List HostAction} {s : State}
    (hhost : s.host = .present req :: rest) (hrel : s.engine.inReset = false) :
    ∃ u r, step s = .next u ∧ u.engine.responses = r :: s.engine.responses := by
  obtain ⟨u, r, hexec, hresp⟩ := exec_answers (decodeReq req) (({ s with host := rest } : State).setRacing none)
  refine ⟨u, r, ?_, hresp⟩
  calc step s = present req { s with host := rest } := step_of_host_cons hhost
    _ = exec (decodeReq req) (({ s with host := rest } : State).setRacing none) := present_of_released hrel
    _ = .next u := hexec

/-- Settles O55: one rule per host action, the released instance answering as every request does. -/
theorem resetHoldsOffRequests : Obligations.ResetHoldsOffRequests := by
  refine ⟨fun s rest hhost => ?assert, fun s req rest hhost hin => ?still,
    fun s req len cells rest hhost hlen hin => ?racing, fun s req rest hhost => ?release⟩
  case assert => exact ⟨_, step_of_host_cons hhost, rfl, rfl, rfl, rfl, rfl, rfl⟩
  case still => exact (step_of_host_cons hhost).trans (present_of_inReset hin)
  case racing =>
    obtain ⟨w, hw⟩ := Window.ofCells_isSome cells hlen
    exact (step_of_host_cons hhost).trans (presentRacing_of_inReset hw hin)
  case release =>
    have hreleased : step s =
        .next { s with engine := { s.engine with inReset := false }, host := .present req :: rest } :=
      step_of_host_cons hhost
    obtain ⟨u, r, hnext, hresp⟩ := step_answers_of_present
      (s := { s with engine := { s.engine with inReset := false }, host := .present req :: rest }) rfl rfl
    exact ⟨_, u, r, hreleased, rfl, hnext, hresp⟩

/-! ### The one fault of a step -/

/-- Settling raises no fault of its own. -/
theorem settle_eq_fault {w : Window} {o : StepOutcome} {f : Fault} (h : settle w o = .fault f) : o = .fault f := by
  cases o with
  | next u => cases h
  | fault g => exact h
  | refused r => cases h

/-- A presented request faults only in reset (R801). -/
theorem present_eq_fault {req : ReqWord} {s : State} {f : Fault} (h : present req s = .fault f) :
    f = .requestDuringReset ∧ s.engine.inReset = true := by
  cases hr : s.engine.inReset with
  | true => exact ⟨(Host.Outcome.fault.inj ((present_of_inReset hr).symm.trans h)).symm, rfl⟩
  | false => exact absurd ((present_of_released hr).symm.trans h) (exec_ne_fault _ _ f)

/-- A presented request faults only in reset (R801), also if the host changes the window meanwhile. -/
theorem presentRacing_eq_fault {req : ReqWord} {len : Nat} {cells : List Host.Cell} {s : State} {f : Fault}
    (h : presentRacing req len cells s = .fault f) : f = .requestDuringReset ∧ s.engine.inReset = true := by
  cases hw : Window.ofCells len cells with
  | none => simp [presentRacing, hw] at h
  | some w =>
    cases hr : s.engine.inReset with
    | true => exact ⟨(Host.Outcome.fault.inj ((presentRacing_of_inReset hw hr).symm.trans h)).symm, rfl⟩
    | false =>
      exact absurd (settle_eq_fault ((presentRacing_of_released hw hr).symm.trans h)) (exec_ne_fault _ _ f)

/-- A host action faults only if it presents a request in reset. -/
theorem hostAct_eq_fault {a : HostAction} {s : State} {f : Fault} (h : hostAct a s = .fault f) :
    (f = .requestDuringReset ∧ s.engine.inReset = true) ∧
      ((∃ req, a = .present req) ∨ ∃ req len cells, a = .presentRacing req len cells) := by
  cases a with
  | present req => exact ⟨present_eq_fault h, .inl ⟨req, rfl⟩⟩
  | presentRacing req len cells => exact ⟨presentRacing_eq_fault h, .inr ⟨req, len, cells, rfl⟩⟩
  | setWindow len cells =>
    simp only [hostAct, setWindow] at h
    split at h <;> cases h
  | selectEngine k =>
    simp only [hostAct, selectEngine] at h
    split at h <;> cases h
  | assertReset => cases h
  | releaseReset => cases h

/-- Settles O58: an idle step does not fault, and a host action does so only by presenting a request in reset. -/
theorem stepFaultsOnlyInReset : Obligations.StepFaultsOnlyInReset := by
  intro s f hstep
  cases hhost : s.host with
  | nil => cases (step_of_host_nil hhost).symm.trans hstep
  | cons a rest =>
    obtain ⟨⟨hf, hin⟩, ha⟩ := hostAct_eq_fault ((step_of_host_cons hhost).symm.trans hstep)
    exact ⟨hf, hin, a, rest, rfl, ha⟩

end Sys2Proof.Machine
end

section
/-!
PROOFS. Liveness: a host that keeps its duties never stops the machine (70_reset_and_hazards.md R802, R805, R807).
-/

namespace Sys2Proof.Machine

/-! ### The duties, action by action -/

section Duties
variable {r : Bool} {o : List Bool} {rest : List HostAction}

/-- Presenting a request is dutiful only out of reset (R801). -/
theorem keepsDuties_present {req : ReqWord} :
    keepsDuties r o (.present req :: rest) = true ↔ r = false ∧ keepsDuties r o rest = true := by
  simp [keepsDuties]

/-- Changing the window between requests is dutiful if a window can be so long (R200, R213). -/
theorem keepsDuties_setWindow {len : Nat} {cells : List Host.Cell} :
    keepsDuties r o (.setWindow len cells :: rest) = true ↔
      len ≤ Config.windowLimit ∧ keepsDuties r o rest = true := by
  simp [keepsDuties]

/-- Turning to another instance is dutiful if the platform has it (R714); the reset conditions are swapped. -/
theorem keepsDuties_selectEngine {k : Nat} :
    keepsDuties r o (.selectEngine k :: rest) = true ↔
      ∃ r', o[k]? = some r' ∧ keepsDuties r' (o.set k r) rest = true := by
  cases hk : o[k]? with
  | none => simp [keepsDuties, hk]
  | some r' => simp [keepsDuties, hk]

end Duties

/-- Whether the host keeps its duties depends on its actions and on which instances are in reset. -/
theorem State.dutiful_iff {s : State} {rest : List HostAction} (h : s.host = rest) :
    s.dutiful = true ↔ keepsDuties s.engine.inReset (s.others.map (·.inReset)) rest = true := by
  rw [State.dutiful, h]

/-- A host keeps its duties in any state with the same actions left and the same instances in reset. -/
theorem State.dutiful_congr {s t : State} (hreset : t.engine.inReset = s.engine.inReset) (hothers : t.others = s.others)
    (hhost : t.host = s.host) : t.dutiful = s.dutiful := by
  rw [State.dutiful, State.dutiful, hreset, hothers, hhost]

/-! ### A dutiful step -/

/-- A window of an allowed length can be put in place between requests (R200, R213). -/
theorem setWindow_of_le {len : Nat} (cells : List Host.Cell) (s : State) (h : len ≤ Config.windowLimit) :
    ∃ w, setWindow len cells s = .next (s.setWindow w) := by
  obtain ⟨w, hw⟩ := Window.ofCells_isSome cells h
  exact ⟨w, by simp only [setWindow, hw]⟩

/-- The host can turn to an instance that is there, and leaves the one in front in its place (R714). -/
theorem selectEngine_of_getElem? {k : Nat} {s : State} {e : Engine} (h : s.others[k]? = some e) :
    selectEngine k s = .next { s with engine := e, others := s.others.set k s.engine } := by
  simp only [selectEngine, h]

/-- A dutiful action gets a next state, and what remains of the host's actions is dutiful there: a request out of reset
completes (R807), a window of an allowed length can be put in place (R200), and the instance turned to is there. -/
theorem hostAct_of_keepsDuties {a : HostAction} {s : State}
    (h : keepsDuties s.engine.inReset (s.others.map (·.inReset)) (a :: s.host) = true) :
    ∃ t, hostAct a s = .next t ∧ t.dutiful = true := by
  cases a with
  | present req =>
    obtain ⟨hrel, hrest⟩ := keepsDuties_present.1 h
    obtain ⟨t, -, hexec, -⟩ := exec_answers (decodeReq req) (s.setRacing none)
    obtain ⟨-, hreset, hothers, hhost, -⟩ := exec_frame hexec
    exact ⟨t, (present_of_released hrel).trans hexec, (State.dutiful_congr hreset hothers hhost).trans hrest⟩
  | presentRacing req len cells => cases h
  | setWindow len cells =>
    obtain ⟨hlen, hrest⟩ := keepsDuties_setWindow.1 h
    obtain ⟨w, hset⟩ := setWindow_of_le cells s hlen
    exact ⟨s.setWindow w, hset, hrest⟩
  | selectEngine k =>
    obtain ⟨r', hr', hrest⟩ := keepsDuties_selectEngine.1 h
    rw [List.getElem?_map] at hr'
    obtain ⟨e, he, rfl⟩ := Option.map_eq_some_iff.1 hr'
    rw [← List.map_set] at hrest
    exact ⟨_, selectEngine_of_getElem? he, hrest⟩
  | assertReset => exact ⟨_, rfl, h⟩
  | releaseReset => exact ⟨_, rfl, h⟩

/-- With a dutiful host the machine has a next step, and its host is dutiful after it. -/
theorem step_of_dutiful {s : State} (h : s.dutiful = true) : ∃ t, step s = .next t ∧ t.dutiful = true := by
  cases hhost : s.host with
  | nil => exact ⟨s, step_of_host_nil hhost, h⟩
  | cons a rest =>
    rw [step_of_host_cons hhost]
    exact hostAct_of_keepsDuties ((State.dutiful_iff hhost).1 h)

/-! ### Runs -/

/-- A run whose first step gets a next state goes on from there. -/
theorem run_succ_of_step {s t : State} (k : Nat) (h : step s = .next t) :
    Sys2Proof.core.run (k + 1) s = Sys2Proof.core.run k t := by
  have hstep : Sys2Proof.core.step s = .next t := h
  simp only [Host.Core.run, hstep]

/-- Where every state with the property `P` has a next step to a state with `P`, runs from such states go on. -/
theorem run_of_step_keeps {P : State → Prop} (hkeep : ∀ s, P s → ∃ t, step s = .next t ∧ P t) (k : Nat) (s : State)
    (hs : P s) : ∃ t : State, Sys2Proof.core.run k s = .next t ∧ P t := by
  induction k generalizing s with
  | zero => exact ⟨s, rfl, hs⟩
  | succ k ih =>
    obtain ⟨t, hstep, ht⟩ := hkeep s hs
    rw [run_succ_of_step k hstep]
    exact ih t ht

/-- Settles O59, by induction on the number of steps: a dutiful host's step is answered and leaves a dutiful host. -/
theorem dutifulHostNeverStopsMachine : Obligations.DutifulHostNeverStopsMachine :=
  run_of_step_keeps fun _ => step_of_dutiful

end Sys2Proof.Machine
end

section
/-!
PROOFS. The policies for a varint cut off by the end of the window (93_implementation_defined.md X9).
-/

namespace Sys2Proof.Machine

/-- Under the policy `literal` a loaded lane vector decodes as it stands, zero fill and all (R506, X9). -/
theorem decodeLoaded_literal (n : Nat) (L : Lanes) : decodeLoaded .literal n L = decodeLanes L :=
  decodeLoaded_blockPolicy n L

/-- Under the policy `malformed` a varint that `Decode` finds counts only where the window's end does not cut it off. -/
theorem decodeLoaded_malformed_of_ok {L : Lanes} {v : Word} {last : Fin 5} (n : Nat) (h : decodeLanes L = .ok v last) :
    decodeLoaded .malformed n L = if truncated n last then .malformed else .ok v last := by
  simp only [decodeLoaded, h]

/-- Settles O17: the policy `malformed` tests whether lane `last` is among the `n` loaded lanes, `literal` tests
nothing. -/
theorem truncatedPoliciesDifferOnlyAtWindowEnd : Obligations.TruncatedPoliciesDifferOnlyAtWindowEnd := by
  intro L n v last h
  rw [decodeLoaded_literal, decodeLoaded_malformed_of_ok n h]
  refine ⟨h, fun hwithin => ?_, fun hcut => ?_⟩
  · exact if_neg (by simpa using hwithin)
  · exact if_pos (by simpa using hcut)

end Sys2Proof.Machine
end
